-- ==== Sys2Proof/Word.lean ====
section
/-! DEFINITION. The words of the block: bytes, pixels, and the transaction records that stand where
another machine has instruction words (spec/30_encoding.md R67 to R73; the block has no instruction bits). -/

namespace Sys2Proof

/-- An unsigned 8-bit value (R10). -/
abbrev Byte := BitVec 8

/-- A packed 32-bit display pixel (R72, R109). -/
abbrev Pixel := BitVec 32

/-- `kind` of a BUS request (R67: `LOAD = 0`, `STORE = 1`). -/
inductive AccessKind where
  | load
  | store
  deriving DecidableEq, Repr, Inhabited

/-- An RXIN event, offered by the host to the producer (R70). -/
inductive InEvent where
  /-- `InByte(b)`: one byte read from the host's standard input stream. -/
  | inByte (b : Byte)
  /-- `InError`: a read failure; the error value is opaque. -/
  | inError
  /-- `InEnd`: the input stream has no more bytes. -/
  | inEnd
  deriving DecidableEq, Repr

/-- The background producer's control state `rx` (R34). -/
inductive Rx where
  /-- Blocked on host standard input, awaiting the next RXIN event. -/
  | reading
  /-- Has read `b` and will next take the lock and test `LSR.DR`. -/
  | got (b : Byte)
  /-- Holds `b`, blocked on the condition with the lock released, because `LSR.DR` was 1. -/
  | waiting (b : Byte)
  /-- Holds `b`, has been woken, and will next take the lock and test `LSR.DR` again. -/
  | woken (b : Byte)
  deriving DecidableEq, Repr

/-- A request the engine presents in the foreground context: BUS (R67), POLL (R69), DISP (R72), or an
instruction fetch (R64). `size` is a natural number and `value` has the engine's own width, so both are `Nat`. -/
inductive Request where
  /-- BUS `Load(addr, size)` or `Store(addr, size, value)`; `value` is ignored for a load. -/
  | bus (kind : AccessKind) (addr size value : Nat)
  /-- POLL: `is_interrupting()`. -/
  | poll
  /-- DISP: a refresh request. -/
  | refresh
  /-- FETCH: an instruction fetch presented at `addr`. -/
  | fetch (addr : Nat)
  deriving DecidableEq, Repr

/-- One atomic step of one agent, in the total order of R60; the forms are the lines of R81's scripts. -/
inductive Move where
  /-- `FG`: the engine presents a request (R124). -/
  | fg (r : Request)
  /-- `BG`: one producer step, the row of R75 its state selects (R81 `bg`). -/
  | bg
  /-- `HOST`: the host offers an RXIN event (R81 `host rx`, `host rxerr`, `host rxend`). -/
  | offer (e : InEvent)
  /-- `HOST`: from here on the host output stream fails, or works again (R128). -/
  | output (fails : Bool)
  deriving DecidableEq, Repr

/-- The decode key (R73): what an operation is selected by. A foreground request carries its own fields; a
producer step's key is the producer state, the offered event (`none` for `-`) and the switch `SPURIOUS_WAKE`. -/
inductive Key where
  | fg (r : Request)
  | rx (state : Rx) (event : Option InEvent) (spurious : Bool)
  deriving DecidableEq, Repr

end Sys2Proof
end

