-- ==== Sys2Proof/Machine/Flags.lean ====
section
/-! DEFINITION. The line-status flags: bit 0 `DR` and bit 5 `THRE` of `regs[5]` (spec/10_state.md R27 to R29). -/

namespace Sys2Proof.Machine

/-- `LSR.DR`, bit 0: an unread byte is in the RHR (R28). -/
def flagDr (lsr : Byte) : Bool := lsr.getLsbD 0

/-- `LSR.THRE`, bit 5: transmit holding empty (R29). -/
def flagThre (lsr : Byte) : Bool := lsr.getLsbD 5

/-- `LSR.DR <- 1`; the other bits are kept (R97). -/
def withDrSet (lsr : Byte) : Byte := lsr ||| 0x01

/-- `LSR.DR <- 0`; the other bits are kept (R83). -/
def withDrClear (lsr : Byte) : Byte := lsr &&& 0xFE

end Sys2Proof.Machine
end

