-- ==== Sys2Proof/Config.lean ====
section
/-! DEFINITION. What an implementation fixes (the parameters of spec/00_scope.md R7) and the free values
(the draws of spec/92_eei_decisions.md D9, D17, D18), which nothing in Lean can evaluate. -/

namespace Sys2Proof

/-- The parameters of R7. A model takes each `OPEN` entry as an argument: here they are data, carried in `State`. -/
structure Params where
  /-- `ADDR_W`: width in bits of a guest physical address. -/
  addrW : Nat
  /-- `UART_BASE`. -/
  uartBase : Nat
  /-- `UART_SIZE`: bytes of the UART window and of the register file. -/
  uartSize : Nat
  /-- `FB_BASE`. -/
  fbBase : Nat
  /-- `FB_WIDTH`, in pixels. -/
  fbWidth : Nat
  /-- `FB_HEIGHT`, in pixels. -/
  fbHeight : Nat
  /-- `MAP_GRAN`: the engine's mapping granularity in bytes. -/
  mapGran : Nat
  /-- `FB_WINDOW`: declared size of the Pixel Store's window. -/
  fbWindow : Nat
  /-- `SPURIOUS_WAKE`: model switch, default `false` (D20). -/
  spuriousWake : Bool
  /-- `RESET_DRAW`: model switch, default `false` (D9). -/
  resetDraw : Bool
  deriving DecidableEq, Repr, Inhabited

/-- `FB_BPP`: fixed, 4 bytes per pixel (R7). -/
def fbBpp : Nat := 4

/-- `ACCESS_SIZE`: fixed, the only supported access size (R7, R54). -/
def accessSize : Nat := 1

/-- `FB_PITCH = FB_WIDTH * 4` (R7). -/
def Params.fbPitch (p : Params) : Nat := p.fbWidth * fbBpp

/-- `FB_LEN = FB_WIDTH * FB_HEIGHT * 4`, on unbounded naturals (R7, R48). -/
def Params.fbLen (p : Params) : Nat := p.fbWidth * p.fbHeight * fbBpp

/-- A legal configuration (R7): the constraints of the table and of the paragraph after it. -/
abbrev Params.Legal (p : Params) : Prop :=
  6 ≤ p.uartSize ∧ 1 ≤ p.fbWidth ∧ 1 ≤ p.fbHeight ∧ 1 ≤ p.mapGran ∧
  p.fbLen ≤ p.fbWindow ∧ p.fbWindow % p.mapGran = 0 ∧
  p.uartBase + p.uartSize ≤ 2 ^ p.addrW ∧ p.fbBase + p.fbWindow ≤ 2 ^ p.addrW ∧
  (p.uartBase + p.uartSize ≤ p.fbBase ∨ p.fbBase + p.fbWindow ≤ p.uartBase)

/-- The configuration an implementation chose: not in the source (D2 to D7), so it has no value here. -/
opaque Config.chosen : Params

/-- A smallest legal configuration; it stands in only where `Config.chosen` is not legal (log entry 1). -/
def Config.smallest : Params where
  addrW := 4
  uartBase := 0
  uartSize := 6
  fbBase := 6
  fbWidth := 1
  fbHeight := 1
  mapGran := 1
  fbWindow := 4
  spuriousWake := false
  resetDraw := false

/-- The configuration of the machine after reset: the chosen one, which is legal (R7), with both model
switches at their default `false`. States under the other settings of the switches are states of the model too. -/
def Config.params : Params :=
  if Config.chosen.Legal then { Config.chosen with spuriousWake := false, resetDraw := false }
  else Config.smallest

/-- FREE VALUE (D9): the reset byte of each register-file offset, read only under `RESET_DRAW = true`. -/
opaque Config.resetReg : Nat → Byte

/-- FREE VALUE (D10): the reset value of `irq`, read only under `RESET_DRAW = true`. -/
opaque Config.resetIrq : Bool

/-- FREE VALUE (D11): the reset byte of each Pixel Store offset, read only under `RESET_DRAW = true`. -/
opaque Config.resetPixelByte : Nat → Byte

/-- FREE VALUE (D17): whether `TX` keeps the byte of the THR store whose flush failed; the argument is `State.draws`. -/
opaque Config.failedFlushKeepsByte : Nat → Bool

/-- FREE VALUE (D18): whether end of input yields a byte; the argument is `State.draws`. -/
opaque Config.endOfInputYieldsByte : Nat → Bool

/-- FREE VALUE (D18): the byte end of input yields, where it yields one; the argument is `State.draws`. -/
opaque Config.endOfInputByte : Nat → Byte

/-- What a Pixel Store byte holds until it is stored to: its reset value (R42, D11). -/
def Params.pixelReset (p : Params) (o : Nat) : Byte :=
  if p.resetDraw then Config.resetPixelByte o else 0x00

end Sys2Proof
end

