-- ==== Sys2Proof/Machine/Operands.lean ====
section
/-! DEFINITION. Operand forms: register offsets, the plain-storage offsets, and the offset and value of a
pixel (spec/30_encoding.md R74, R75; spec/42_framebuffer.md R107, R109). -/

namespace Sys2Proof.Machine

/-- Offset 0, read side: the receive-holding register (R23). -/
def offRhr : Nat := 0

/-- Offset 3: the line-control register (R23). -/
def offLcr : Nat := 3

/-- Offset 5: the line-status register (R23). -/
def offLsr : Nat := 5

/-- The offset operand of `UART.LD.REG` and `UART.ST.REG`: in {1, 2, 4} or `6 .. UART_SIZE-1` (R86, R90). -/
def plainOffset (p : Params) (o : Nat) : Bool :=
  o == 1 || o == 2 || o == 4 || (decide (6 ≤ o) && decide (o < p.uartSize))

/-- The offset operand of `FB.LD` and `FB.ST`: below `FB_LEN` (R105, R106). -/
def pixelOffsetOk (p : Params) (o : Nat) : Bool := decide (o < p.fbLen)

/-- The offset of byte `k` of pixel `(x, y)`, under the row pitch `pitch` (R107). -/
def pixelOffset (pitch x y k : Nat) : Nat := y * pitch + x * 4 + k

/-- One packed pixel, least-significant byte first (R109). -/
def packPixel (b0 b1 b2 b3 : Byte) : Pixel :=
  b0.setWidth 32 ||| (b1.setWidth 32 <<< 8) ||| (b2.setWidth 32 <<< 16) ||| (b3.setWidth 32 <<< 24)

end Sys2Proof.Machine
end

