-- ==== Sys2Proof/Syntax.lean ====
section
/-! DEFINITION. The operations of the block: one constructor per row of spec/opcode_table.json
(the operation map of spec/30_encoding.md R75), with the operands R74 assembles. -/

namespace Sys2Proof

/-- The 21 operations. An offset operand is `addr - base`; a data byte is `value[7:0]` (R74). -/
inductive Instr where
  /-- `FETCH.FAULT` (R64): an instruction fetch presented at a window. -/
  | fetchFault (addr : Nat)
  /-- `BUS.FAULT.UNMAPPED` (R53): an address in neither window. -/
  | busFaultUnmapped (kind : AccessKind) (addr size : Nat)
  /-- `BUS.FAULT.WIDTH` (R54): an access size other than 1. -/
  | busFaultWidth (kind : AccessKind) (addr size : Nat)
  /-- `BUS.FAULT.RANGE` (R52): a Pixel Store offset at or above `FB_LEN`. -/
  | busFaultRange (kind : AccessKind) (addr size offset : Nat)
  /-- `UART.LD.RHR` (R83). -/
  | uartLdRhr
  /-- `UART.LD.LCR` (R84). -/
  | uartLdLcr
  /-- `UART.LD.LSR` (R85). -/
  | uartLdLsr
  /-- `UART.LD.REG` (R86): offset in {1, 2, 4} or 6 .. `UART_SIZE`-1. -/
  | uartLdReg (offset : Nat)
  /-- `UART.ST.THR` (R87). -/
  | uartStThr (v : Byte)
  /-- `UART.ST.LCR` (R88). -/
  | uartStLcr (v : Byte)
  /-- `UART.ST.LSR` (R89). -/
  | uartStLsr (v : Byte)
  /-- `UART.ST.REG` (R90): offset as for `UART.LD.REG`. -/
  | uartStReg (offset : Nat) (v : Byte)
  /-- `FB.LD` (R105): offset below `FB_LEN`. -/
  | fbLd (offset : Nat)
  /-- `FB.ST` (R106): offset below `FB_LEN`. -/
  | fbSt (offset : Nat) (v : Byte)
  /-- `IRQ.POLL` (R99). -/
  | irqPoll
  /-- `RX.READ.BYTE` (R93): the event `InByte(b)`. -/
  | rxReadByte (b : Byte)
  /-- `RX.READ.ERR` (R94): the event `InError`. -/
  | rxReadErr
  /-- `RX.READ.END` (R95): the event `InEnd`. -/
  | rxReadEnd
  /-- `RX.CHECK` (R97): the byte `b` held in `Got(b)` or `Woken(b)`. -/
  | rxCheck (b : Byte)
  /-- `RX.SPURIOUS` (R98): the byte `b` held in `Waiting(b)`. -/
  | rxSpurious (b : Byte)
  /-- `FB.REFRESH` (R109). -/
  | fbRefresh
  deriving DecidableEq, Repr

end Sys2Proof
end

