-- ==== Sys2Proof/WellFormed.lean ====
section
/-! DEFINITION. Which operations and which decode keys are well formed under a configuration: the
operand ranges of the rows of spec/30_encoding.md R75, and the widths of R67. -/

namespace Sys2Proof

/-- `addr` lies in the UART window `[UART_BASE, UART_BASE + UART_SIZE)` (R47). -/
abbrev Params.InUart (p : Params) (addr : Nat) : Prop :=
  p.uartBase ≤ addr ∧ addr < p.uartBase + p.uartSize

/-- `addr` lies in the Pixel Store window `[FB_BASE, FB_BASE + FB_WINDOW)` (R47). -/
abbrev Params.InFb (p : Params) (addr : Nat) : Prop :=
  p.fbBase ≤ addr ∧ addr < p.fbBase + p.fbWindow

/-- The offsets of `UART.LD.REG` and `UART.ST.REG`: in {1, 2, 4} or `6 .. UART_SIZE-1` (R75 rows 8 and 12). -/
abbrev Params.PlainOffset (p : Params) (o : Nat) : Prop :=
  o = 1 ∨ o = 2 ∨ o = 4 ∨ (6 ≤ o ∧ o < p.uartSize)

/-- The operands are ones the operation's row of R75 admits. -/
def Instr.wellFormed (p : Params) : Instr → Bool
  | .fetchFault addr => decide (addr < 2 ^ p.addrW ∧ (p.InUart addr ∨ p.InFb addr))
  | .busFaultUnmapped _ addr _ => decide (addr < 2 ^ p.addrW ∧ ¬p.InUart addr ∧ ¬p.InFb addr)
  | .busFaultWidth _ addr size =>
    decide (addr < 2 ^ p.addrW ∧ (p.InUart addr ∨ p.InFb addr) ∧ size ≠ 1)
  | .busFaultRange _ addr size offset =>
    decide (p.InFb addr ∧ size = 1 ∧ addr = p.fbBase + offset ∧ p.fbLen ≤ offset)
  | .uartLdRhr => true
  | .uartLdLcr => true
  | .uartLdLsr => true
  | .uartLdReg offset => decide (p.PlainOffset offset)
  | .uartStThr _ => true
  | .uartStLcr _ => true
  | .uartStLsr _ => true
  | .uartStReg offset _ => decide (p.PlainOffset offset)
  | .fbLd offset => decide (offset < p.fbLen)
  | .fbSt offset _ => decide (offset < p.fbLen)
  | .irqPoll => true
  | .rxReadByte _ => true
  | .rxReadErr => true
  | .rxReadEnd => true
  | .rxCheck _ => true
  | .rxSpurious _ => p.spuriousWake
  | .fbRefresh => true

/-- The key is one the block can be presented with: an address has `ADDR_W` bits (R45), a fetch reaches the
block only at a window (R64), and a producer key pairs a state with the event that state takes (R73). -/
def Key.wellFormed (p : Params) : Key → Bool
  | .fg (.bus _ addr _ _) => decide (addr < 2 ^ p.addrW)
  | .fg .poll => true
  | .fg .refresh => true
  | .fg (.fetch addr) => decide (addr < 2 ^ p.addrW ∧ (p.InUart addr ∨ p.InFb addr))
  | .rx .reading event _ => event.isSome
  | .rx (.got _) event _ => event.isNone
  | .rx (.waiting _) event spurious => event.isNone && spurious
  | .rx (.woken _) event _ => event.isNone

end Sys2Proof
end

