-- ==== Sys2Proof/Decode.lean ====
section
/-! DEFINITION. The Address-Space Binder's address decode (spec/20_memory.md R49), the operation map from
decode key to operation (spec/30_encoding.md R75, R76), the encoder, and the model's own numbering of keys. -/

namespace Sys2Proof

/-- What `decode(addr)` of R49 returns. -/
inductive Region where
  | uart (offset : Nat)
  | fb (offset : Nat)
  | unmapped
  deriving DecidableEq, Repr

/-- Why a key selects no operation. -/
inductive Reject where
  /-- R96: `rx = Reading` and the host offers no event. The producer holds. -/
  | holdNoInput
  /-- R96: `rx = Waiting(b)` and `SPURIOUS_WAKE = false`. The producer holds. -/
  | holdWaiting
  /-- R73: an event beside a producer state that takes none; no producer can be in this key. -/
  | eventNotTaken
  /-- R45: the address has more than `ADDR_W` bits, so it is no address of the engine's space. -/
  | addressTooWide (addr : Nat)
  /-- R64: a fetch outside both windows is not presented to the block. -/
  | fetchOutsideWindows (addr : Nat)
  /-- The word's port field is none of the five ports (log entry 12). -/
  | reservedPort (code : Nat)
  /-- The word's region field is none of the three regions (log entry 12). -/
  | reservedRegion (code : Nat)
  deriving DecidableEq, Repr

/-- `decode(addr)` (R49): the UART window is tested first; offset arithmetic is exact (R48). -/
def decodeAddr (p : Params) (addr : Nat) : Region :=
  if p.uartBase ≤ addr ∧ addr < p.uartBase + p.uartSize then .uart (addr - p.uartBase)
  else if p.fbBase ≤ addr ∧ addr < p.fbBase + p.fbWindow then .fb (addr - p.fbBase)
  else .unmapped

/-- `value[7:0]`: the bits of a store value above bit 7 are ignored (R57). -/
def lowByte (value : Nat) : Byte := BitVec.ofNat 8 value

/-- Rows 5 to 12 of R75: a one-byte access at UART offset `o`. -/
def decodeUart (kind : AccessKind) (o : Nat) (v : Byte) : Instr :=
  match kind with
  | .load => if o = 0 then .uartLdRhr else if o = 3 then .uartLdLcr else if o = 5 then .uartLdLsr else .uartLdReg o
  | .store =>
    if o = 0 then .uartStThr v else if o = 3 then .uartStLcr v else if o = 5 then .uartStLsr v else .uartStReg o v

/-- Rows 13 and 14 of R75: a one-byte access at a Pixel Store offset below `FB_LEN`. -/
def decodeFb (kind : AccessKind) (o : Nat) (v : Byte) : Instr :=
  match kind with
  | .load => .fbLd o
  | .store => .fbSt o v

/-- The decode order of R51 and R76 for a BUS request: unmapped, then width, then range, then the row. -/
def decodeBus (p : Params) (kind : AccessKind) (addr size value : Nat) : Instr :=
  match decodeAddr p addr with
  | .unmapped => .busFaultUnmapped kind addr size
  | .uart o => if size ≠ accessSize then .busFaultWidth kind addr size else decodeUart kind o (lowByte value)
  | .fb o =>
    if size ≠ accessSize then .busFaultWidth kind addr size
    else if p.fbLen ≤ o then .busFaultRange kind addr size o
    else decodeFb kind o (lowByte value)

/-- Row 1 of R75: a fetch into a window. -/
def decodeFetch (p : Params) (addr : Nat) : Except Reject Instr :=
  match decodeAddr p addr with
  | .unmapped => .error (.fetchOutsideWindows addr)
  | .uart _ => .ok (.fetchFault addr)
  | .fb _ => .ok (.fetchFault addr)

/-- Rows 16 to 20 of R75, and the two holds of R96. -/
def decodeRx (rx : Rx) (event : Option InEvent) (spurious : Bool) : Except Reject Instr :=
  match rx, event with
  | .reading, some (.inByte b) => .ok (.rxReadByte b)
  | .reading, some .inError => .ok .rxReadErr
  | .reading, some .inEnd => .ok .rxReadEnd
  | .reading, none => .error .holdNoInput
  | .got b, none => .ok (.rxCheck b)
  | .woken b, none => .ok (.rxCheck b)
  | .waiting b, none => if spurious then .ok (.rxSpurious b) else .error .holdWaiting
  | .got _, some _ => .error .eventNotTaken
  | .woken _, some _ => .error .eventNotTaken
  | .waiting _, some _ => .error .eventNotTaken

/-- The operation a key selects (R75), total on every key; a key that selects none is rejected by name. -/
def decode (p : Params) (k : Key) : Except Reject Instr :=
  match k with
  | .fg (.bus kind addr size value) =>
    if 2 ^ p.addrW ≤ addr then .error (.addressTooWide addr) else .ok (decodeBus p kind addr size value)
  | .fg .poll => .ok .irqPoll
  | .fg .refresh => .ok .fbRefresh
  | .fg (.fetch addr) => if 2 ^ p.addrW ≤ addr then .error (.addressTooWide addr) else decodeFetch p addr
  | .rx state event spurious => decodeRx state event spurious

/-- A BUS load of one byte at UART offset `o`: `(0, UART_BASE+o, 1, -)` (R81). -/
def uartLoadKey (p : Params) (o : Nat) : Key := .fg (.bus .load (p.uartBase + o) 1 0)

/-- A BUS store of one byte at UART offset `o`: `(1, UART_BASE+o, 1, v)` (R81). -/
def uartStoreKey (p : Params) (o : Nat) (v : Byte) : Key := .fg (.bus .store (p.uartBase + o) 1 v.toNat)

/-- A key of the operation, written from the key columns of R75; free key fields are 0. -/
def encode (p : Params) (i : Instr) : Key :=
  match i with
  | .fetchFault addr => .fg (.fetch addr)
  | .busFaultUnmapped kind addr size => .fg (.bus kind addr size 0)
  | .busFaultWidth kind addr size => .fg (.bus kind addr size 0)
  | .busFaultRange kind addr size _ => .fg (.bus kind addr size 0)
  | .uartLdRhr => uartLoadKey p 0
  | .uartLdLcr => uartLoadKey p 3
  | .uartLdLsr => uartLoadKey p 5
  | .uartLdReg o => uartLoadKey p o
  | .uartStThr v => uartStoreKey p 0 v
  | .uartStLcr v => uartStoreKey p 3 v
  | .uartStLsr v => uartStoreKey p 5 v
  | .uartStReg o v => uartStoreKey p o v
  | .fbLd o => .fg (.bus .load (p.fbBase + o) 1 0)
  | .fbSt o v => .fg (.bus .store (p.fbBase + o) 1 v.toNat)
  | .irqPoll => .fg .poll
  | .rxReadByte b => .rx .reading (some (.inByte b)) p.spuriousWake
  | .rxReadErr => .rx .reading (some .inError) p.spuriousWake
  | .rxReadEnd => .rx .reading (some .inEnd) p.spuriousWake
  | .rxCheck b => .rx (.got b) none p.spuriousWake
  | .rxSpurious b => .rx (.waiting b) none p.spuriousWake
  | .fbRefresh => .fg .refresh

/-! The model's own numbering of keys as words (log entry 12; R73: the block has no instruction bits).
Bits 2:0 are the port (0 BUS, 1 POLL, 2 RX, 3 DISP, 4 FETCH).
BUS and FETCH: bit 3 is `kind`, bits 5:4 the region (0 absolute, 1 UART, 2 FB), bits 15:8 `size`, bits 31:16
`value`, and bits 32 upward the offset from the region's base (the address itself for region 0).
RX: bits 4:3 are the producer state (0 Reading, 1 Got, 2 Waiting, 3 Woken), bits 6:5 the event (0 none,
1 InByte, 2 InError, 3 InEnd), bit 7 is `SPURIOUS_WAKE`, and bits 15:8 are the byte.
A field that the key's row does not test is free. -/

/-- `n` bits of `w` from bit `lo` up. -/
def wordField (w lo n : Nat) : Nat := w / 2 ^ lo % 2 ^ n

/-- The `kind` field of a BUS word. -/
def wordKind (w : Nat) : AccessKind := if wordField w 3 1 = 0 then .load else .store

/-- The absolute address of a BUS or FETCH word. -/
def wordAddr (p : Params) (w : Nat) : Except Reject Nat :=
  match wordField w 4 2 with
  | 0 => .ok (w / 2 ^ 32)
  | 1 => .ok (p.uartBase + w / 2 ^ 32)
  | 2 => .ok (p.fbBase + w / 2 ^ 32)
  | r => .error (.reservedRegion r)

/-- The producer state of an RX word. -/
def wordRx (w : Nat) : Rx :=
  match wordField w 3 2 with
  | 0 => .reading
  | 1 => .got (lowByte (wordField w 8 8))
  | 2 => .waiting (lowByte (wordField w 8 8))
  | _ => .woken (lowByte (wordField w 8 8))

/-- The event of an RX word. -/
def wordEvent (w : Nat) : Option InEvent :=
  match wordField w 5 2 with
  | 0 => none
  | 1 => some (.inByte (lowByte (wordField w 8 8)))
  | 2 => some .inError
  | _ => some .inEnd

/-- The key that a word of `nbits` bits numbers; the bits above are 0. -/
def wordKey (p : Params) (nbits word : Nat) : Except Reject Key :=
  let w := word % 2 ^ nbits
  match wordField w 0 3 with
  | 0 => (wordAddr p w).map fun addr => .fg (.bus (wordKind w) addr (wordField w 8 8) (wordField w 16 16))
  | 1 => .ok (.fg .poll)
  | 2 => .ok (.rx (wordRx w) (wordEvent w) (decide (wordField w 7 1 = 1)))
  | 3 => .ok (.fg .refresh)
  | 4 => (wordAddr p w).map fun addr => .fg (.fetch addr)
  | c => .error (.reservedPort c)

/-- The operation the decoder reads from a word of `nbits` bits, under the configuration after reset. -/
def decodeTableWord (nbits w : Nat) : Option Instr :=
  match wordKey Config.params nbits w with
  | .error _ => none
  | .ok k =>
    match decode Config.params k with
    | .error _ => none
    | .ok i => some i

end Sys2Proof
end

