-- ==== Sys2Proof/Machine/State.lean ====
section
/-! DEFINITION. The state of the block as plain data (spec/10_state.md R20 to R44), the faults and refusals,
and the state construction leaves (R42). -/

namespace Sys2Proof.Machine

/-- The operations that hold lock `L`: the ones that can meet `LockPoisoned` (R127). -/
inductive LockOp where
  | uartLdRhr
  | uartLdLcr
  | uartLdLsr
  | uartLdReg
  | uartStThr
  | uartStLcr
  | uartStLsr
  | uartStReg
  | rxCheck
  deriving DecidableEq, Repr

/-- The six kinds of fault the block raises, with the info R113 records. Raising one is a next state with the
`fault` field set (R114); from then on every step answers this fault, because no agent takes a further step. -/
inductive Fault where
  /-- Code 1. Raised by `BUS.FAULT.UNMAPPED` (R53). Safe: the real engine would not present the address. -/
  | unmapped (kind : AccessKind) (addr size : Nat)
  /-- Code 2. Raised by `BUS.FAULT.WIDTH` (R54). Safe: a binder that decomposes would go on (D13). -/
  | badWidth (kind : AccessKind) (addr size : Nat)
  /-- Code 3. Raised by `BUS.FAULT.RANGE` (R52). Safe (D15). -/
  | outOfRange (kind : AccessKind) (addr size offset : Nat)
  /-- Code 4. Raised by `UART.ST.THR` while the host output stream fails (R128). Safe (D17). -/
  | txError (value : Byte)
  /-- Code 5. Raised on entry to an `atomic(L)` group while `poisoned` (R127). Safe: a fault already stops the block. -/
  | lockPoisoned (op : LockOp)
  /-- Code 6. Raised by `FETCH.FAULT` (R64). Safe (D23). -/
  | fetch (addr : Nat)
  deriving DecidableEq, Repr

/-- Why the model gives no outcome. -/
inductive Refusal where
  /-- `exec`: the operation has no meaning yet. Safe. -/
  | notModelled (mnemonic : String)
  /-- A meaning whose offset operand is outside its row of R75; no decoded request has one. Safe. -/
  | operandOutsideRow
  /-- `act`: the record is no request of the block (an address of more than `ADDR_W` bits, a fetch outside both
  windows). Safe. -/
  | notARequest (why : Reject)
  deriving DecidableEq, Repr

/-- What the latest step answered at its interface (the model's own field, log entry 11). -/
inductive Response where
  /-- No response: a producer or host step, or a request that faulted (R68). -/
  | silent
  /-- A load's byte (R68). -/
  | rdata (b : Byte)
  /-- A store's acknowledgement, with no data (R68). -/
  | ack
  /-- A poll's bit: the prior value of `irq` (R69). -/
  | polled (prior : Bool)
  /-- A refresh's record `(pixels, width, height)` (R72). -/
  | frame (pixels : List Pixel) (width height : Nat)
  /-- One report of an input error, sent to the diagnostic log (R94, R40). -/
  | errorReport
  /-- No step was enabled: a hold (R17, R96). -/
  | held
  deriving DecidableEq, Repr

/-- `cfg`: the Pixel Store's immutable configuration (R36). -/
structure PixelCfg where
  width : Nat
  height : Nat
  pitch : Nat
  deriving DecidableEq, Repr

/-- Storage as (offset, byte) pairs, offsets strictly rising, none equal to what an unlisted offset reads as. -/
abbrev Memory := List Host.Cell

/-- The canonical form, where an unlisted offset `o` reads as `base o`. -/
abbrev Memory.wf (base : Nat → Byte) (m : Memory) : Prop :=
  m.Pairwise (fun c d => c.1 < d.1) ∧ ∀ c ∈ m, c.2 ≠ base c.1

/-- The state of the block (R20), the parameters it was built with (R7), and the interfaces' side of a run. -/
structure State where
  /-- The parameters of R7; no operation writes them. -/
  params : Params
  /-- `regs`: the UART register file, byte `o` at index `o`, `UART_SIZE` bytes (R22). -/
  regs : List Byte
  /-- `irq`: the interrupt-pending flag (R32). -/
  irq : Bool
  /-- `poisoned`: an agent faulted while holding lock `L` (R33). -/
  poisoned : Bool
  /-- `rx`: the producer's control state (R34). -/
  rx : Rx
  /-- `fb`: the Pixel Store's bytes that differ from their reset value (R35). -/
  fb : Memory
  /-- `cfg` (R36). -/
  cfg : PixelCfg
  /-- `TX`: the bytes emitted to the host output stream, in order (R37). -/
  tx : List Byte
  /-- `fault` (R39). -/
  fault : Option Fault
  /-- The latest step's response (log entry 11). -/
  resp : Response
  /-- RXIN: the events the host has offered and the producer has not consumed, oldest first (log entry 5). -/
  rxin : List InEvent
  /-- The host output stream fails (log entry 6). -/
  txFails : Bool
  /-- The coming steps of all agents, in the total order of R60 (log entry 4). -/
  agenda : List Move
  /-- How many free values the steps have drawn (log entry 7). -/
  draws : Nat
  deriving DecidableEq, Repr

/-- The reset byte of register-file offset `o` (R42). LSR bits 5 and 0 stand under either setting of `RESET_DRAW`. -/
def resetRegByte (p : Params) (o : Nat) : Byte :=
  if o = 5 then (if p.resetDraw then (Config.resetReg 5 &&& 0xDE) ||| 0x20 else 0x20)
  else if p.resetDraw then Config.resetReg o
  else 0x00

/-- The state construction leaves under the parameters `p` (R42, R130). -/
def State.construct (p : Params) : State where
  params := p
  regs := (List.range p.uartSize).map (resetRegByte p)
  irq := if p.resetDraw then Config.resetIrq else false
  poisoned := false
  rx := .reading
  fb := []
  cfg := { width := p.fbWidth, height := p.fbHeight, pitch := p.fbWidth * 4 }
  tx := []
  fault := none
  resp := .silent
  rxin := []
  txFails := false
  agenda := []
  draws := 0

/-- The machine right after reset (R42), under the configuration the implementation chose. -/
def State.reset : State := State.construct Config.params

end Sys2Proof.Machine
end

