-- ==== Sys2Proof/Machine/Ops.lean ====
section
/-! DEFINITION. The named operations over registers, the Pixel Store, the faults, the lock and the holds, which
every meaning is written with. -/

namespace Sys2Proof.Machine

/-- What a step answers. -/
abbrev Result := Host.Outcome State Fault Refusal

/-! ### Sparse storage -/

/-- The byte at offset `o`; an unlisted offset reads as `base o`. -/
def memRead (base : Nat → Byte) (m : Memory) (o : Nat) : Byte :=
  match m with
  | [] => base o
  | (a, b) :: rest => if a = o then b else memRead base rest o

/-- List `v` at offset `o`, in address order. -/
def memPut (m : Memory) (o : Nat) (v : Byte) : Memory :=
  match m with
  | [] => [(o, v)]
  | (a, b) :: rest =>
    if o < a then (o, v) :: (a, b) :: rest
    else if o = a then (o, v) :: rest
    else (a, b) :: memPut rest o v

/-- Store `v` at offset `o`, keeping the canonical form: a byte equal to what an unlisted offset reads as is not listed. -/
def memWrite (base : Nat → Byte) (m : Memory) (o : Nat) (v : Byte) : Memory :=
  if v = base o then m.filter (fun c => c.1 ≠ o) else memPut m o v

/-! ### Accessors: one home for each component -/

/-- `regs[o]` (R22). -/
def State.reg (s : State) (o : Nat) : Byte := s.regs.getD o 0x00

/-- `regs[o] <- v`. -/
def State.setReg (s : State) (o : Nat) (v : Byte) : State := { s with regs := s.regs.set o v }

/-- `LSR.DR`. -/
def State.dr (s : State) : Bool := flagDr (s.reg offLsr)

/-- `LSR.THRE`. -/
def State.thre (s : State) : Bool := flagThre (s.reg offLsr)

/-- `fb[o]` (R35). -/
def State.fbByte (s : State) (o : Nat) : Byte := memRead s.params.pixelReset s.fb o

/-- `fb[o] <- v`. -/
def State.setFbByte (s : State) (o : Nat) (v : Byte) : State :=
  { s with fb := memWrite s.params.pixelReset s.fb o v }

/-- `irq <- b`. -/
def State.setIrq (s : State) (b : Bool) : State := { s with irq := b }

/-- `poisoned <- b`. -/
def State.setPoisoned (s : State) (b : Bool) : State := { s with poisoned := b }

/-- `rx <- r`. -/
def State.setRx (s : State) (r : Rx) : State := { s with rx := r }

/-- `TX <- TX ++ [v]` (R37). -/
def State.pushTx (s : State) (v : Byte) : State := { s with tx := s.tx ++ [v] }

/-- `fault <- some(f)` (R114). -/
def State.setFault (s : State) (f : Fault) : State := { s with fault := some f }

/-- The step's response. -/
def State.respond (s : State) (r : Response) : State := { s with resp := r }

/-- The RXIN events still offered. -/
def State.setRxin (s : State) (es : List InEvent) : State := { s with rxin := es }

/-- Whether the host output stream fails. -/
def State.setTxFails (s : State) (b : Bool) : State := { s with txFails := b }

/-- The coming steps. -/
def State.setAgenda (s : State) (ms : List Move) : State := { s with agenda := ms }

/-- One more free value has been drawn. -/
def State.countDraw (s : State) : State := { s with draws := s.draws + 1 }

/-! ### Taking a fault, the lock, and the holds -/

/-- The code of a fault (R113). -/
def faultCode (f : Fault) : Nat :=
  match f with
  | .unmapped _ _ _ => 1
  | .badWidth _ _ _ => 2
  | .outOfRange _ _ _ _ => 3
  | .txError _ => 4
  | .lockPoisoned _ => 5
  | .fetch _ => 6

/-- The mnemonic `LockPoisoned` records (R113). -/
def lockOpMnemonic (op : LockOp) : String :=
  match op with
  | .uartLdRhr => "UART.LD.RHR"
  | .uartLdLcr => "UART.LD.LCR"
  | .uartLdLsr => "UART.LD.LSR"
  | .uartLdReg => "UART.LD.REG"
  | .uartStThr => "UART.ST.THR"
  | .uartStLcr => "UART.ST.LCR"
  | .uartStLsr => "UART.ST.LSR"
  | .uartStReg => "UART.ST.REG"
  | .rxCheck => "RX.CHECK"

/-- `raise Fault(kind, info)` (R12, R114): the fault is recorded, there is no response (R68), and nothing else
changes (R115). The block has no trap entry and no return from one (R121, R122), so nothing undoes this. -/
def raise (f : Fault) (s : State) : Result := .next ((s.setFault f).respond .silent)

/-- `require fault = none` (R51, R114): a faulted block takes no step, and says which fault stopped it. -/
def whileRunning (s : State) (body : State → Result) : Result :=
  match s.fault with
  | some f => .fault f
  | none => body s

/-- `atomic(L) { body }` (R13, R127): one indivisible step; while poisoned it raises `LockPoisoned` first. -/
def atomicL (op : LockOp) (s : State) (body : State → Result) : Result :=
  if s.poisoned then raise (.lockPoisoned op) s else body s

/-- A hold (R17, R96): the agent has no enabled step, so nothing of the block changes. -/
def hold (s : State) : Result := .next (s.respond .held)

/-! ### The parts the families share -/

/-- A load inside `atomic(L)` that returns the raw byte at `o` with no side effect (R84 to R86). -/
def loadRaw (op : LockOp) (o : Nat) (s : State) : Result :=
  atomicL op s fun s => .next (s.respond (.rdata (s.reg o)))

/-- A store inside `atomic(L)` of the raw byte at `o` with no side effect (R88 to R90). -/
def storeRaw (op : LockOp) (o : Nat) (v : Byte) (s : State) : Result :=
  atomicL op s fun s => .next ((s.setReg o v).respond .ack)

/-- "wakes any task blocked waiting to deliver new input" (R83 a). -/
def wake (s : State) : State :=
  match s.rx with
  | .waiting b => s.setRx (.woken b)
  | .reading => s
  | .got _ => s
  | .woken _ => s

/-- The deliver branch of `RX.CHECK` (R97): the byte, the interrupt flag, `LSR.DR`, and the producer's state. -/
def deliver (b : Byte) (s : State) : State :=
  let s := s.setReg offRhr b
  let s := s.setIrq true
  let s := s.setReg offLsr (withDrSet (s.reg offLsr))
  s.setRx .reading

/-- A THR store whose flush fails (R115, R127, R128): `TX` has the byte or not (a free value), the lock is
poisoned, and `TxError` is raised. -/
def failFlush (v : Byte) (s : State) : Result :=
  let s' := if Config.failedFlushKeepsByte s.draws then s.pushTx v else s
  raise (.txError v) (s'.countDraw.setPoisoned true)

/-- Take the event at the head of RXIN, as the producer's read does (R93 to R95). -/
def consumeEvent (s : State) : State := s.setRxin s.rxin.tail

/-- The packed value of pixel `p` (R109). -/
def pixelAt (s : State) (p : Nat) : Pixel :=
  packPixel (s.fbByte (4 * p)) (s.fbByte (4 * p + 1)) (s.fbByte (4 * p + 2)) (s.fbByte (4 * p + 3))

/-- The `FB_WIDTH * FB_HEIGHT` packed pixels, in row-major order (R109). -/
def framePixels (s : State) : List Pixel := (List.range (s.cfg.width * s.cfg.height)).map (pixelAt s)

end Sys2Proof.Machine
end

