-- ==== Sys2Proof/Machine/Bus.lean ====
section
/-! DEFINITION. The faulting rows of the operation map: FETCH.FAULT and BUS.FAULT.* (spec/20_memory.md R51 to
R54, R64; spec/60_exceptions.md R113 to R115). -/

namespace Sys2Proof.Machine

/-- `FETCH.FAULT` (R64): neither window is executable. -/
def execFetchFault (addr : Nat) (s : State) : Result :=
  whileRunning s fun s => raise (.fetch addr) s

/-- `BUS.FAULT.UNMAPPED` (R53). -/
def execBusFaultUnmapped (kind : AccessKind) (addr size : Nat) (s : State) : Result :=
  whileRunning s fun s => raise (.unmapped kind addr size) s

/-- `BUS.FAULT.WIDTH` (R54). -/
def execBusFaultWidth (kind : AccessKind) (addr size : Nat) (s : State) : Result :=
  whileRunning s fun s => raise (.badWidth kind addr size) s

/-- `BUS.FAULT.RANGE` (R52). -/
def execBusFaultRange (kind : AccessKind) (addr size offset : Nat) (s : State) : Result :=
  whileRunning s fun s => raise (.outOfRange kind addr size offset) s

end Sys2Proof.Machine
end

