-- ==== Sys2Proof/Machine/Pixels.lean ====
section
/-! DEFINITION. The Pixel Store's byte port and the display output (spec/42_framebuffer.md R105, R106, R109). None
of them takes the lock (spec/20_memory.md R62). -/

namespace Sys2Proof.Machine

/-- `FB.LD` (R105). -/
def execFbLd (offset : Nat) (s : State) : Result :=
  whileRunning s fun s =>
    if pixelOffsetOk s.params offset then .next (s.respond (.rdata (s.fbByte offset)))
    else .refused .operandOutsideRow

/-- `FB.ST` (R106). -/
def execFbSt (offset : Nat) (v : Byte) (s : State) : Result :=
  whileRunning s fun s =>
    if pixelOffsetOk s.params offset then .next ((s.setFbByte offset v).respond .ack)
    else .refused .operandOutsideRow

/-- `FB.REFRESH` (R109): the frame is read as one atomic snapshot, and nothing is written. -/
def execFbRefresh (s : State) : Result :=
  whileRunning s fun s => .next (s.respond (.frame (framePixels s) s.cfg.width s.cfg.height))

end Sys2Proof.Machine
end

