-- ==== Sys2Proof/Machine/RxIrq.lean ====
section
/-! DEFINITION. The background producer's steps and the interrupt poll (spec/41_rx_irq.md R93 to R99). An
operation whose key the producer is not in has no enabled step, so it holds. -/

namespace Sys2Proof.Machine

/-- `RX.READ.BYTE` (R93): consume `InByte(b)`; the lock is not taken. -/
def execRxReadByte (b : Byte) (s : State) : Result :=
  whileRunning s fun s =>
    if s.rx = .reading ∧ s.rxin.head? = some (.inByte b) then
      .next (((consumeEvent s).setRx (.got b)).respond .silent)
    else hold s

/-- `RX.READ.ERR` (R94): consume `InError`, report it once to the diagnostic log, stay `Reading`. -/
def execRxReadErr (s : State) : Result :=
  whileRunning s fun s =>
    if s.rx = .reading ∧ s.rxin.head? = some .inError then .next ((consumeEvent s).respond .errorReport)
    else hold s

/-- `RX.READ.END` (R95): consume `InEnd`; a free choice between staying `Reading` and `Got(d)` for a free byte `d`. -/
def execRxReadEnd (s : State) : Result :=
  whileRunning s fun s =>
    if s.rx = .reading ∧ s.rxin.head? = some .inEnd then
      let d := if Config.endOfInputYieldsByte s.draws then Rx.got (Config.endOfInputByte s.draws) else .reading
      .next (((consumeEvent s).setRx d).countDraw.respond .silent)
    else hold s

/-- `RX.CHECK` (R97): wait while `LSR.DR` is 1, else deliver. -/
def execRxCheck (b : Byte) (s : State) : Result :=
  whileRunning s fun s =>
    if s.rx = .got b ∨ s.rx = .woken b then
      atomicL .rxCheck s fun s =>
        if s.dr then .next ((s.setRx (.waiting b)).respond .silent) else .next ((deliver b s).respond .silent)
    else hold s

/-- `RX.SPURIOUS` (R98): the step exists only when `SPURIOUS_WAKE` is set. -/
def execRxSpurious (b : Byte) (s : State) : Result :=
  whileRunning s fun s =>
    if s.params.spuriousWake ∧ s.rx = .waiting b then .next ((s.setRx (.woken b)).respond .silent)
    else hold s

/-- `IRQ.POLL` (R99): `r <- swap(irq, false); return r`; the lock is not taken. -/
def execIrqPoll (s : State) : Result :=
  whileRunning s fun s => .next ((s.setIrq false).respond (.polled s.irq))

end Sys2Proof.Machine
end

