-- ==== Sys2Proof/Machine/Uart.lean ====
section
/-! DEFINITION. The UART register file's operations (spec/40_uart_registers.md R83 to R90). -/

namespace Sys2Proof.Machine

/-- `UART.LD.RHR` (R83): wake a waiting producer, clear `LSR.DR`, return `regs[0]`. -/
def execUartLdRhr (s : State) : Result :=
  whileRunning s fun s => atomicL .uartLdRhr s fun s =>
    let s := wake s
    let s := s.setReg offLsr (withDrClear (s.reg offLsr))
    .next (s.respond (.rdata (s.reg offRhr)))

/-- `UART.LD.LCR` (R84). -/
def execUartLdLcr (s : State) : Result :=
  whileRunning s fun s => loadRaw .uartLdLcr offLcr s

/-- `UART.LD.LSR` (R85): reading clears no bit. -/
def execUartLdLsr (s : State) : Result :=
  whileRunning s fun s => loadRaw .uartLdLsr offLsr s

/-- `UART.LD.REG` (R86). -/
def execUartLdReg (offset : Nat) (s : State) : Result :=
  whileRunning s fun s =>
    if plainOffset s.params offset then loadRaw .uartLdReg offset s else .refused .operandOutsideRow

/-- `UART.ST.THR` (R87): append the byte to `TX` and flush, whatever `LSR.THRE` holds; no register changes. If the
host output stream fails, `TxError` (R128). -/
def execUartStThr (v : Byte) (s : State) : Result :=
  whileRunning s fun s => atomicL .uartStThr s fun s =>
    if s.txFails then failFlush v s else .next ((s.pushTx v).respond .ack)

/-- `UART.ST.LCR` (R88): any value is stored whole. -/
def execUartStLcr (v : Byte) (s : State) : Result :=
  whileRunning s fun s => storeRaw .uartStLcr offLcr v s

/-- `UART.ST.LSR` (R89): all eight bits are written, and no wake is issued. -/
def execUartStLsr (v : Byte) (s : State) : Result :=
  whileRunning s fun s => storeRaw .uartStLsr offLsr v s

/-- `UART.ST.REG` (R90). -/
def execUartStReg (offset : Nat) (v : Byte) (s : State) : Result :=
  whileRunning s fun s =>
    if plainOffset s.params offset then storeRaw .uartStReg offset v s else .refused .operandOutsideRow

end Sys2Proof.Machine
end

