-- ==== Sys2Proof/Machine/Dispatch.lean ====
section
/-! DEFINITION. One arm per operation of the block (spec/30_encoding.md R75). -/

namespace Sys2Proof.Machine

def exec (i : Instr) (s : State) : Host.Outcome State Fault Refusal :=
  match i with
  | .fetchFault addr => Sys2Proof.Machine.execFetchFault addr s
  | .busFaultUnmapped kind addr size => Sys2Proof.Machine.execBusFaultUnmapped kind addr size s
  | .busFaultWidth kind addr size => Sys2Proof.Machine.execBusFaultWidth kind addr size s
  | .busFaultRange kind addr size offset => Sys2Proof.Machine.execBusFaultRange kind addr size offset s
  | .uartLdRhr => Sys2Proof.Machine.execUartLdRhr s
  | .uartLdLcr => Sys2Proof.Machine.execUartLdLcr s
  | .uartLdLsr => Sys2Proof.Machine.execUartLdLsr s
  | .uartLdReg offset => Sys2Proof.Machine.execUartLdReg offset s
  | .uartStThr v => Sys2Proof.Machine.execUartStThr v s
  | .uartStLcr v => Sys2Proof.Machine.execUartStLcr v s
  | .uartStLsr v => Sys2Proof.Machine.execUartStLsr v s
  | .uartStReg offset v => Sys2Proof.Machine.execUartStReg offset v s
  | .fbLd offset => Sys2Proof.Machine.execFbLd offset s
  | .fbSt offset v => Sys2Proof.Machine.execFbSt offset v s
  | .irqPoll => Sys2Proof.Machine.execIrqPoll s
  | .rxReadByte b => Sys2Proof.Machine.execRxReadByte b s
  | .rxReadErr => Sys2Proof.Machine.execRxReadErr s
  | .rxReadEnd => Sys2Proof.Machine.execRxReadEnd s
  | .rxCheck b => Sys2Proof.Machine.execRxCheck b s
  | .rxSpurious b => Sys2Proof.Machine.execRxSpurious b s
  | .fbRefresh => Sys2Proof.Machine.execFbRefresh s

end Sys2Proof.Machine
end

