-- ==== Sys2Proof/Machine/Agents.lean ====
section
/-! DEFINITION. One atomic step of one agent (spec/60_exceptions.md R124, spec/20_memory.md R60): the key its state
selects, the operation the key decodes to, and the host's own moves. -/

namespace Sys2Proof.Machine

/-- The producer's decode key (R73): its state, the event it takes (`-` unless `Reading`), and the switch. -/
def producerKey (s : State) : Key :=
  match s.rx with
  | .reading => .rx .reading s.rxin.head? s.params.spuriousWake
  | .got b => .rx (.got b) none s.params.spuriousWake
  | .waiting b => .rx (.waiting b) none s.params.spuriousWake
  | .woken b => .rx (.woken b) none s.params.spuriousWake

/-- The decode key of a move; a host move has none, because it is no operation of the block. -/
def moveKey (m : Move) (s : State) : Option Key :=
  match m with
  | .fg r => some (.fg r)
  | .bg => some (producerKey s)
  | .offer _ => none
  | .output _ => none

/-- A key that selects no operation: the producer holds (R96), or the record is no request of the block. -/
def rejected (r : Reject) (s : State) : Result :=
  match r with
  | .holdNoInput => hold s
  | .holdWaiting => hold s
  | .eventNotTaken => .refused (.notARequest .eventNotTaken)
  | .addressTooWide a => .refused (.notARequest (.addressTooWide a))
  | .fetchOutsideWindows a => .refused (.notARequest (.fetchOutsideWindows a))
  | .reservedPort c => .refused (.notARequest (.reservedPort c))
  | .reservedRegion c => .refused (.notARequest (.reservedRegion c))

/-- Decode the key and run the operation it selects (R51, R76). -/
def runKey (k : Key) (s : State) : Result :=
  match decode s.params k with
  | .ok i => exec i s
  | .error r => rejected r s

/-- One step of the agent that moves. A faulted block takes no step (R114). -/
def act (m : Move) (s : State) : Result :=
  whileRunning s fun s =>
    match m with
    | .fg r => runKey (.fg r) s
    | .bg => runKey (producerKey s) s
    | .offer e => .next ((s.setRxin (s.rxin ++ [e])).respond .silent)
    | .output fails => .next ((s.setTxFails fails).respond .silent)

/-- Take the next step of the agenda; with none scheduled, no agent moves. -/
def nextMove (s : State) : Result :=
  match s.agenda with
  | [] => hold s
  | m :: rest => act m (s.setAgenda rest)

/-- The state in which the next step runs the operation that key `k` selects: a foreground request is put at the
head of the agenda; a producer key also sets the producer's state, its event and the switch. -/
def placeKey (k : Key) (s : State) : State :=
  match k with
  | .fg r => s.setAgenda (.fg r :: s.agenda)
  | .rx state event spurious =>
    let rxin := match event with
      | some e => e :: s.rxin
      | none => if state = .reading then [] else s.rxin
    { s with rx := state, rxin := rxin, params := { s.params with spuriousWake := spurious },
             agenda := .bg :: s.agenda }

end Sys2Proof.Machine
end

