-- ==== Sys2Proof/Machine/Step.lean ====
section
/-! DEFINITION. One step of the machine: the next move of the agenda (spec/20_memory.md R60), unless the block is
faulted (spec/60_exceptions.md R114). -/

namespace Sys2Proof.Machine

/-- One atomic step of the agent that is next in the total order. -/
def step (s : State) : Host.Outcome State Fault Refusal :=
  whileRunning s nextMove

/-- `s` with the operation that the word `w` numbers placed where `step` takes its next one (log entries 4, 12). -/
def State.withFetchWord (s : State) (nbits w : Nat) : State :=
  match wordKey s.params nbits w with
  | .ok k => placeKey k s
  | .error _ => s

end Sys2Proof.Machine
end

