-- ==== Sys2Proof/Safety.lean ====
section
/-! DEFINITION. The terms statements are made in: well-formed states (spec/10_state.md R44), runs of moves and of
operations, what a run delivers and polls, the mailbox (spec/41_rx_irq.md R101), and weak fairness (R102). -/

namespace Sys2Proof.Machine

/-! ### Well-formed states -/

/-- The fault a step raises while it holds the lock: of the six kinds, only `TxError` (R127). -/
def raisedInLock (f : Option Fault) : Bool :=
  match f with
  | some (.txError _) => true
  | some (.unmapped _ _ _) => false
  | some (.badWidth _ _ _) => false
  | some (.outOfRange _ _ _ _) => false
  | some (.lockPoisoned _) => false
  | some (.fetch _) => false
  | none => false

/-- A well-formed state (R44): legal parameters, `regs` of `UART_SIZE` bytes, `cfg` as configured, the Pixel Store
in canonical form below `FB_LEN`, and the lock poisoned only by a fault raised while it was held (R127). -/
structure State.Wf (s : State) : Prop where
  legal : s.params.Legal
  regsLength : s.regs.length = s.params.uartSize
  cfgAsConfigured : s.cfg = { width := s.params.fbWidth, height := s.params.fbHeight, pitch := s.params.fbPitch }
  fbCanonical : s.fb.wf s.params.pixelReset
  fbBelow : ∀ c ∈ s.fb, c.1 < s.params.fbLen
  poisonedInLock : s.poisoned = true → raisedInLock s.fault = true

/-- The block takes steps and its lock can be taken. -/
abbrev State.Ready (s : State) : Prop := s.fault = none ∧ s.poisoned = false

/-! ### Runs -/

/-- The moves in order, each from the state the one before it left (R60). -/
def runMoves (ms : List Move) (s : State) : Result :=
  match ms with
  | [] => .next s
  | m :: rest =>
    match act m s with
    | .next t => runMoves rest t
    | .fault f => .fault f
    | .refused r => .refused r

/-- The operations in order. -/
def execAll (is : List Instr) (s : State) : Result :=
  match is with
  | [] => .next s
  | i :: rest =>
    match exec i s with
    | .next t => execAll rest t
    | .fault f => .fault f
    | .refused r => .refused r

/-- The operation a move selects, under the parameters and the producer state of `s`; none for a host move, a hold
or a record that is no request. -/
def selects (m : Move) (s : State) : Option Instr :=
  match moveKey m s with
  | none => none
  | some k => (decode s.params k).toOption

/-- The BUS load of one byte at `addr`: `ld addr` (R81). -/
def ld (addr : Nat) : Move := .fg (.bus .load addr 1 0)

/-- The BUS store of one byte at `addr`: `st addr, v` (R81). -/
def st (addr : Nat) (v : Byte) : Move := .fg (.bus .store addr 1 v.toNat)

/-! ### What a run does at the handshake -/

/-- The byte the producer holds outside the register file (R38). -/
def heldBytes (r : Rx) : List Byte :=
  match r with
  | .reading => []
  | .got b => [b]
  | .waiting b => [b]
  | .woken b => [b]

/-- The bytes among RXIN events. -/
def inBytes (es : List InEvent) : List Byte :=
  es.filterMap fun e =>
    match e with
    | .inByte b => some b
    | .inError => none
    | .inEnd => none

/-- The RXIN events a list of moves offers, in order. -/
def offersOf (ms : List Move) : List InEvent :=
  ms.filterMap fun m =>
    match m with
    | .offer e => some e
    | .fg _ => none
    | .bg => none
    | .output _ => none

/-- The byte that move `m` delivers from `s`: the deliver branch of `RX.CHECK` (R97). -/
def delivered (m : Move) (s : State) : List Byte :=
  if m = .bg ∧ s.Ready ∧ s.dr = false then
    match s.rx with
    | .reading => []
    | .got b => [b]
    | .waiting _ => []
    | .woken b => [b]
  else []

/-- The bytes a run delivers into the RHR, in order. -/
def deliveries (ms : List Move) (s : State) : List Byte :=
  match ms with
  | [] => []
  | m :: rest =>
    delivered m s ++
      match act m s with
      | .next t => deliveries rest t
      | .fault _ => []
      | .refused _ => []

/-- How many deliveries of a run find `irq` already `true` and so coalesce (R100). -/
def coalesced (ms : List Move) (s : State) : Nat :=
  match ms with
  | [] => 0
  | m :: rest =>
    (if s.irq then (delivered m s).length else 0) +
      match act m s with
      | .next t => coalesced rest t
      | .fault _ => 0
      | .refused _ => 0

/-- How many polls of a run return `true`. -/
def truePolls (ms : List Move) (s : State) : Nat :=
  match ms with
  | [] => 0
  | m :: rest =>
    match act m s with
    | .next t => (if t.resp = .polled true then 1 else 0) + truePolls rest t
    | .fault _ => 0
    | .refused _ => 0

/-- Whether a delivered byte is unread after a run: a delivery has happened and no RHR load has come after it.
`u` says whether one was unread before. -/
def unreadAfter (ms : List Move) (s : State) (u : Bool) : Bool :=
  match ms with
  | [] => u
  | m :: rest =>
    let u' := if delivered m s ≠ [] then true
      else if selects m s = some .uartLdRhr ∧ s.Ready then false else u
    match act m s with
    | .next t => unreadAfter rest t u'
    | .fault _ => u'
    | .refused _ => u'

/-- No move of the run is a store to UART offset 5, under parameters `p` (the premise of R101). -/
def NoLsrStore (p : Params) (ms : List Move) : Prop :=
  ∀ r : Request, Move.fg r ∈ ms → ∀ v : Byte, decode p (.fg r) ≠ .ok (.uartStLsr v)

/-- The mailbox: a producer waits only while `LSR.DR` is 1 (R101). -/
def State.Mailbox (s : State) : Prop := ∀ b : Byte, s.rx = .waiting b → s.dr = true

/-! ### Fairness -/

/-- The state after the first `n` moves of a schedule. -/
def runTo (schedule : Nat → Move) (s : State) (n : Nat) : Result :=
  match n with
  | 0 => .next s
  | k + 1 =>
    match runTo schedule s k with
    | .next t => act (schedule k) t
    | .fault f => .fault f
    | .refused r => .refused r

/-- `RX.CHECK` is enabled (R96: `Got(b)` and `Woken(b)` are never holds). -/
def checkEnabled (s : State) : Bool :=
  match s.rx with
  | .reading => false
  | .got _ => true
  | .waiting _ => false
  | .woken _ => true

/-- The RXIN read is enabled: the producer is `Reading` and the host offers an event. -/
def readEnabled (s : State) : Bool := decide (s.rx = .reading) && !s.rxin.isEmpty

/-- Weak fairness (R102): from no point on is one of the two steps enabled for ever and never taken. It asks nothing
of the host and nothing of `RX.SPURIOUS`. -/
def WeaklyFair (schedule : Nat → Move) (s : State) : Prop :=
  ∀ n : Nat,
    ((∀ m, n ≤ m → ∃ t, runTo schedule s m = .next t ∧ checkEnabled t = true) ∨
      (∀ m, n ≤ m → ∃ t, runTo schedule s m = .next t ∧ readEnabled t = true)) →
    ∃ m, n ≤ m ∧ schedule m = .bg

end Sys2Proof.Machine
end

