-- ==== Sys2Proof/Certificates/Slice0/Obligations.lean ====
section
/-! DEFINITION. The statements for the provers. Each docstring says which rules of spec/ it formalises. -/

open Sys2Proof Sys2Proof.Machine

/-! ### Reset -/

/-- R42, R129, R130: what construction leaves, under either setting of `RESET_DRAW`. The bytes `0x00` and `irq = false`
are the spec's decisions D9, D10 and D11 (log entry 2); the configuration after reset is the model's (log entry 1). -/
def Obligations.ResetLeavesTheStatedState : Prop :=
  State.reset = State.construct Config.params ∧ Config.params.Legal ∧
  Config.params.spuriousWake = false ∧ Config.params.resetDraw = false ∧
  ∀ p : Params, p.Legal →
    (State.construct p).params = p ∧ (State.construct p).regs.length = p.uartSize ∧
    (State.construct p).dr = false ∧ (State.construct p).thre = true ∧
    (State.construct p).poisoned = false ∧ (State.construct p).rx = .reading ∧
    (State.construct p).cfg = { width := p.fbWidth, height := p.fbHeight, pitch := p.fbWidth * 4 } ∧
    (State.construct p).tx = [] ∧ (State.construct p).fault = none ∧
    (p.resetDraw = false →
      (∀ o, o < p.uartSize → (State.construct p).reg o = if o = 5 then 0x20 else 0x00) ∧
      (State.construct p).irq = false ∧ ∀ o, (State.construct p).fbByte o = 0x00)

/-- R131: the observations that hold right after reset, with `RESET_DRAW = false` (decisions D9 to D11, log entry 2). -/
def Obligations.ObservationsRightAfterReset : Prop :=
  ∀ p : Params, p.Legal → p.resetDraw = false →
    act (ld (p.uartBase + 5)) (State.construct p) =
      .next { State.construct p with resp := .rdata 0x20 } ∧
    act (ld (p.uartBase + 0)) (State.construct p) =
      .next { State.construct p with regs := (State.construct p).regs.set 5 0x20, resp := .rdata 0x00 } ∧
    act (.fg .poll) (State.construct p) = .next { State.construct p with irq := false, resp := .polled false } ∧
    (∀ o, o < p.fbLen →
      act (ld (p.fbBase + o)) (State.construct p) = .next { State.construct p with resp := .rdata 0x00 }) ∧
    (State.construct p).tx = []

/-- R44 at reset: every constructed state is well formed, so the state after reset is. -/
def Obligations.ConstructedStateIsWellFormed : Prop :=
  (∀ p : Params, p.Legal → (State.construct p).Wf) ∧ State.reset.Wf

/-! ### UART loads and stores -/

/-- R83: an RHR load wakes a waiting producer, clears `LSR.DR` (bit 0 and no other bit), and returns `regs[0]`, which
it does not change; while the lock is poisoned it raises `LockPoisoned` and changes nothing else. -/
def Obligations.RhrLoadReturnsTheByteClearsDrAndWakes : Prop :=
  ∀ s : State, s.fault = none →
    (s.poisoned = false → ∀ b : Byte, s.rx = .waiting b →
      exec .uartLdRhr s =
        .next { s with rx := .woken b, regs := s.regs.set 5 (s.reg 5 &&& 0xFE), resp := .rdata (s.reg 0) }) ∧
    (s.poisoned = false → (∀ b : Byte, s.rx ≠ .waiting b) →
      exec .uartLdRhr s = .next { s with regs := s.regs.set 5 (s.reg 5 &&& 0xFE), resp := .rdata (s.reg 0) }) ∧
    (s.poisoned = true →
      exec .uartLdRhr s = .next { s with fault := some (.lockPoisoned .uartLdRhr), resp := .silent })

/-- R84, R85, R86: a load of the LCR, of the LSR or of a plain offset returns the raw byte and changes nothing. -/
def Obligations.RawRegisterLoadsReturnTheByte : Prop :=
  ∀ s : State, s.fault = none →
    (s.poisoned = false →
      exec .uartLdLcr s = .next { s with resp := .rdata (s.reg 3) } ∧
      exec .uartLdLsr s = .next { s with resp := .rdata (s.reg 5) } ∧
      ∀ o, s.params.PlainOffset o → exec (.uartLdReg o) s = .next { s with resp := .rdata (s.reg o) }) ∧
    (s.poisoned = true →
      exec .uartLdLcr s = .next { s with fault := some (.lockPoisoned .uartLdLcr), resp := .silent } ∧
      exec .uartLdLsr s = .next { s with fault := some (.lockPoisoned .uartLdLsr), resp := .silent } ∧
      ∀ o, s.params.PlainOffset o →
        exec (.uartLdReg o) s = .next { s with fault := some (.lockPoisoned .uartLdReg), resp := .silent })

/-- R87: a THR store appends its byte to `TX` whatever `LSR.THRE` holds and changes no other component; while the
lock is poisoned it raises `LockPoisoned`. That the store takes the lock is the spec's decision D31 (log entry 22). -/
def Obligations.ThrStoreEmitsTheByte : Prop :=
  ∀ (s : State) (v : Byte), s.fault = none →
    (s.poisoned = false → s.txFails = false →
      exec (.uartStThr v) s = .next { s with tx := s.tx ++ [v], resp := .ack }) ∧
    (s.poisoned = true →
      exec (.uartStThr v) s = .next { s with fault := some (.lockPoisoned .uartStThr), resp := .silent })

/-- R128, R115, R127: while the host output fails, a THR store raises `TxError`, poisons the lock, and leaves `TX`
with the byte or without it (decision D17, log entry 6; a free value: the statement holds for every value of it). -/
def Obligations.FailingOutputRaisesTxError : Prop :=
  ∀ (s : State) (v : Byte), s.fault = none → s.poisoned = false → s.txFails = true →
    ∃ tx' : List Byte, (tx' = s.tx ∨ tx' = s.tx ++ [v]) ∧
      exec (.uartStThr v) s =
        .next { s with tx := tx', draws := s.draws + 1, poisoned := true, fault := some (.txError v), resp := .silent }

/-- R88, R89, R90: a store to the LCR, to the LSR or to a plain offset writes that whole byte and nothing else; the
LSR store issues no wake (`rx` is as it was). -/
def Obligations.RawRegisterStoresWriteTheWholeByte : Prop :=
  ∀ (s : State) (v : Byte), s.fault = none →
    (s.poisoned = false →
      exec (.uartStLcr v) s = .next { s with regs := s.regs.set 3 v, resp := .ack } ∧
      exec (.uartStLsr v) s = .next { s with regs := s.regs.set 5 v, resp := .ack } ∧
      ∀ o, s.params.PlainOffset o → exec (.uartStReg o v) s = .next { s with regs := s.regs.set o v, resp := .ack }) ∧
    (s.poisoned = true →
      exec (.uartStLcr v) s = .next { s with fault := some (.lockPoisoned .uartStLcr), resp := .silent } ∧
      exec (.uartStLsr v) s = .next { s with fault := some (.lockPoisoned .uartStLsr), resp := .silent } ∧
      ∀ o, s.params.PlainOffset o →
        exec (.uartStReg o v) s = .next { s with fault := some (.lockPoisoned .uartStReg), resp := .silent })

/-- R23, R88 to R90 read byte by byte: after a raw store the byte stored at `o` reads as `v`, and every other register
byte and every Pixel Store byte reads as before. -/
def Obligations.RawRegisterStoresChangeOneByte : Prop :=
  ∀ (s t : State) (i : Instr) (o : Nat) (v : Byte), s.Wf → s.poisoned = false →
    ((i = .uartStLcr v ∧ o = 3) ∨ (i = .uartStLsr v ∧ o = 5) ∨ i = .uartStReg o v) →
    exec i s = .next t →
    t.reg o = v ∧ (∀ k, k ≠ o → t.reg k = s.reg k) ∧ (∀ k, t.fbByte k = s.fbByte k) ∧
    t = { s with regs := t.regs, resp := .ack }

/-! ### The producer and the poll -/

/-- R93: the producer reads one input byte, whatever `LSR.DR` holds, without taking the lock. -/
def Obligations.ReadByteTakesTheOfferedByte : Prop :=
  ∀ (s : State) (b : Byte) (rest : List InEvent), s.fault = none → s.rx = .reading → s.rxin = .inByte b :: rest →
    exec (.rxReadByte b) s = .next { s with rxin := rest, rx := .got b, resp := .silent }

/-- R94: an input error is consumed and reported once; the producer stays `Reading` and nothing else changes
(that `TX` gets no report is the spec's decision D19, log entry 18). -/
def Obligations.ReadErrorIsReportedAndReadingGoesOn : Prop :=
  ∀ (s : State) (rest : List InEvent), s.fault = none → s.rx = .reading → s.rxin = .inError :: rest →
    exec .rxReadErr s = .next { s with rxin := rest, resp := .errorReport }

/-- R95: end of input leaves the producer `Reading` or in `Got(d)` (a free choice and a free byte, log entry 7: the
statement holds for every value of them), and changes no register, no flag and no `TX`. -/
def Obligations.EndOfInputStaysReadingOrDrawsAByte : Prop :=
  ∀ (s : State) (rest : List InEvent), s.fault = none → s.rx = .reading → s.rxin = .inEnd :: rest →
    ∃ r : Rx, (r = .reading ∨ ∃ d : Byte, r = .got d) ∧
      exec .rxReadEnd s = .next { s with rxin := rest, rx := r, draws := s.draws + 1, resp := .silent }

/-- R97: from `Got(b)` or `Woken(b)` the check waits while `LSR.DR` is 1, and otherwise writes the byte into the RHR,
sets `irq`, sets `LSR.DR` and goes back to `Reading`, keeping the other LSR bits. That the deliver branch is one atomic
step, here one next state, is the spec's decision D21 (log entry 22). -/
def Obligations.CheckDeliversOrWaits : Prop :=
  ∀ (s : State) (b : Byte), s.fault = none → (s.rx = .got b ∨ s.rx = .woken b) →
    (s.poisoned = false → s.dr = true → exec (.rxCheck b) s = .next { s with rx := .waiting b, resp := .silent }) ∧
    (s.poisoned = false → s.dr = false →
      exec (.rxCheck b) s =
        .next { s with regs := (s.regs.set 0 b).set 5 (s.reg 5 ||| 0x01), irq := true, rx := .reading, resp := .silent }) ∧
    (s.poisoned = true →
      exec (.rxCheck b) s = .next { s with fault := some (.lockPoisoned .rxCheck), resp := .silent })

/-- R98: with `SPURIOUS_WAKE = true` a waiting producer can be woken by no RHR load, and nothing else changes
(the switch is the spec's decision D20, log entry 8). -/
def Obligations.SpuriousWakeMovesWaitingToWoken : Prop :=
  ∀ (s : State) (b : Byte), s.fault = none → s.params.spuriousWake = true → s.rx = .waiting b →
    exec (.rxSpurious b) s = .next { s with rx := .woken b, resp := .silent }

/-- R96: the producer has no enabled step while `Reading` with no event offered, and while `Waiting` with
`SPURIOUS_WAKE = false`; a `bg` move then changes nothing of the block (log entry 10). In `Got` and `Woken` it runs
`RX.CHECK`. -/
def Obligations.ProducerHoldsExactlyInTwoCases : Prop :=
  ∀ s : State, s.fault = none →
    (s.rx = .reading → s.rxin = [] → act .bg s = .next { s with resp := .held }) ∧
    (∀ b : Byte, s.rx = .waiting b → s.params.spuriousWake = false → act .bg s = .next { s with resp := .held }) ∧
    (∀ b : Byte, (s.rx = .got b ∨ s.rx = .woken b) → act .bg s = exec (.rxCheck b) s) ∧
    (∀ b : Byte, s.rx = .waiting b → s.params.spuriousWake = true → act .bg s = exec (.rxSpurious b) s) ∧
    (∀ (b : Byte) (rest : List InEvent), s.rx = .reading → s.rxin = .inByte b :: rest →
      act .bg s = exec (.rxReadByte b) s) ∧
    (∀ rest : List InEvent, s.rx = .reading → s.rxin = .inError :: rest → act .bg s = exec .rxReadErr s) ∧
    (∀ rest : List InEvent, s.rx = .reading → s.rxin = .inEnd :: rest → act .bg s = exec .rxReadEnd s)

/-- R99: a poll returns the prior value of `irq` and clears it; it takes no lock, so it is the same while poisoned. -/
def Obligations.PollReturnsAndClearsIrq : Prop :=
  ∀ s : State, s.fault = none → exec .irqPoll s = .next { s with irq := false, resp := .polled s.irq }

/-! ### The Pixel Store -/

/-- R105, R106: a load returns the byte at its offset and changes nothing; a store makes that byte `v`. Neither takes
the lock. -/
def Obligations.PixelByteLoadAndStore : Prop :=
  ∀ (s : State) (o : Nat), s.fault = none → o < s.params.fbLen →
    exec (.fbLd o) s = .next { s with resp := .rdata (s.fbByte o) } ∧
    ∀ v : Byte, ∃ t : State, exec (.fbSt o v) s = .next t ∧ t = { s with fb := t.fb, resp := .ack } ∧
      t.fbByte o = v ∧ ∀ k, k ≠ o → t.fbByte k = s.fbByte k

/-- R109: a refresh answers the packed pixels in row-major order with the width and the height, least-significant
byte first, and writes nothing. -/
def Obligations.RefreshAnswersThePackedFrame : Prop :=
  ∀ s : State, s.fault = none →
    ∃ pixels : List Pixel,
      exec .fbRefresh s = .next { s with resp := .frame pixels s.cfg.width s.cfg.height } ∧
      pixels.length = s.cfg.width * s.cfg.height ∧
      ∀ p, p < s.cfg.width * s.cfg.height →
        pixels[p]? = some ((s.fbByte (4 * p)).setWidth 32 ||| ((s.fbByte (4 * p + 1)).setWidth 32 <<< 8) |||
          ((s.fbByte (4 * p + 2)).setWidth 32 <<< 16) ||| ((s.fbByte (4 * p + 3)).setWidth 32 <<< 24))

/-- R110: `pixels[p][8k+7 : 8k] = fb[4p + k]`. -/
def Obligations.EachPixelByteIsItsBufferByte : Prop :=
  ∀ (s : State) (p k : Nat), p < s.cfg.width * s.cfg.height → k < 4 →
    ∃ x : Pixel, (framePixels s)[p]? = some x ∧ x.extractLsb' (8 * k) 8 = s.fbByte (4 * p + k)

/-- R110: a frame determines the whole buffer, byte by byte and as stored data. -/
def Obligations.FrameDeterminesTheBuffer : Prop :=
  ∀ s t : State, s.Wf → t.Wf → s.params = t.params → framePixels s = framePixels t →
    (∀ o, o < s.params.fbLen → s.fbByte o = t.fbByte o) ∧ s.fb = t.fb

/-- R107: byte `k` of pixel `(x, y)` is at offset `4p + k` for `p = y * FB_WIDTH + x`, inside the buffer, and no two
pixels share an offset. -/
def Obligations.PixelOffsetsAreRowMajorAndDistinct : Prop :=
  ∀ (s : State) (x y k : Nat), s.Wf → x < s.cfg.width → y < s.cfg.height → k < 4 →
    pixelOffset s.cfg.pitch x y k = 4 * (y * s.cfg.width + x) + k ∧
    pixelOffset s.cfg.pitch x y k < s.params.fbLen ∧
    ∀ x' y' k' : Nat, x' < s.cfg.width → k' < 4 →
      pixelOffset s.cfg.pitch x y k = pixelOffset s.cfg.pitch x' y' k' → x = x' ∧ y = y' ∧ k = k'

/-- R108: a stored pixel byte is what a later load returns, whatever moves of any agent come between, as long as none
of them is a store to that offset. -/
def Obligations.StoredPixelByteIsReadBack : Prop :=
  ∀ (s t : State) (o : Nat) (v : Byte) (ms : List Move), s.Wf → o < s.params.fbLen →
    (∀ r : Request, Move.fg r ∈ ms → ∀ w : Byte, decode s.params (.fg r) ≠ .ok (.fbSt o w)) →
    runMoves (st (s.params.fbBase + o) v :: ms ++ [ld (s.params.fbBase + o)]) s = .next t →
    t.resp = .rdata v

/-! ### Decode and faults -/

/-- R49, R51, R75, R76: for every BUS request exactly one row applies, in this order. -/
def Obligations.BusRequestsDecodeInTheStatedOrder : Prop :=
  ∀ (p : Params) (kind : AccessKind) (addr size value : Nat), p.Legal → addr < 2 ^ p.addrW →
    (¬p.InUart addr → ¬p.InFb addr →
      decode p (.fg (.bus kind addr size value)) = .ok (.busFaultUnmapped kind addr size)) ∧
    ((p.InUart addr ∨ p.InFb addr) → size ≠ 1 →
      decode p (.fg (.bus kind addr size value)) = .ok (.busFaultWidth kind addr size)) ∧
    (∀ o, o < p.fbWindow → p.fbLen ≤ o → addr = p.fbBase + o → size = 1 →
      decode p (.fg (.bus kind addr size value)) = .ok (.busFaultRange kind addr size o)) ∧
    (∀ o, o < p.fbLen → addr = p.fbBase + o → size = 1 →
      decode p (.fg (.bus kind addr size value)) =
        .ok (if kind = .load then .fbLd o else .fbSt o (BitVec.ofNat 8 value))) ∧
    (∀ o, o < p.uartSize → addr = p.uartBase + o → size = 1 →
      decode p (.fg (.bus kind addr size value)) =
        .ok (if kind = .load then
            (if o = 0 then .uartLdRhr else if o = 3 then .uartLdLcr else if o = 5 then .uartLdLsr else .uartLdReg o)
          else
            (if o = 0 then .uartStThr (BitVec.ofNat 8 value) else if o = 3 then .uartStLcr (BitVec.ofNat 8 value)
             else if o = 5 then .uartStLsr (BitVec.ofNat 8 value) else .uartStReg o (BitVec.ofNat 8 value))))

/-- R52, R53, R54, R64: the illegal request forms raise their fault, recorded with the info of R113, and leave every
other component as it was (R115). That they fault is the spec's decision (D13 to D15, D23; log entry 15). -/
def Obligations.IllegalRequestsRaiseTheirFault : Prop :=
  ∀ (s : State) (kind : AccessKind) (addr size value : Nat), s.Wf → s.fault = none → addr < 2 ^ s.params.addrW →
    (¬s.params.InUart addr → ¬s.params.InFb addr →
      act (.fg (.bus kind addr size value)) s =
        .next { s with fault := some (.unmapped kind addr size), resp := .silent }) ∧
    ((s.params.InUart addr ∨ s.params.InFb addr) → size ≠ 1 →
      act (.fg (.bus kind addr size value)) s =
        .next { s with fault := some (.badWidth kind addr size), resp := .silent }) ∧
    (s.params.InFb addr → s.params.fbLen ≤ addr - s.params.fbBase → size = 1 →
      act (.fg (.bus kind addr size value)) s =
        .next { s with fault := some (.outOfRange kind addr size (addr - s.params.fbBase)), resp := .silent }) ∧
    ((s.params.InUart addr ∨ s.params.InFb addr) →
      act (.fg (.fetch addr)) s = .next { s with fault := some (.fetch addr), resp := .silent })

/-- R113, R115: each faulting row of the operation map records its fault and changes nothing else (the spec's decision
D25, log entry 9). -/
def Obligations.FaultRowsRecordTheirFault : Prop :=
  ∀ (s : State) (kind : AccessKind) (addr size offset : Nat), s.fault = none →
    exec (.fetchFault addr) s = .next { s with fault := some (.fetch addr), resp := .silent } ∧
    exec (.busFaultUnmapped kind addr size) s =
      .next { s with fault := some (.unmapped kind addr size), resp := .silent } ∧
    exec (.busFaultWidth kind addr size) s =
      .next { s with fault := some (.badWidth kind addr size), resp := .silent } ∧
    exec (.busFaultRange kind addr size offset) s =
      .next { s with fault := some (.outOfRange kind addr size offset), resp := .silent }

/-- R114: in a faulted block no agent takes a further step, and the recorded fault is what every step answers (the
spec's decision D25, log entry 9). -/
def Obligations.FaultedBlockTakesNoStep : Prop :=
  ∀ (s : State) (f : Fault), s.fault = some f →
    (∀ i : Instr, exec i s = .fault f) ∧ (∀ m : Move, act m s = .fault f) ∧ step s = .fault f

/-- R113, R77: the six fault kinds have the codes 1 to 6, and `LockPoisoned` records the mnemonic of its step (the
codes are the spec's decision D25, log entry 9). -/
def Obligations.FaultKindsHaveTheStatedCodes : Prop :=
  ∀ (kind : AccessKind) (addr size offset : Nat) (v : Byte) (op : LockOp),
    faultCode (.unmapped kind addr size) = 1 ∧ faultCode (.badWidth kind addr size) = 2 ∧
    faultCode (.outOfRange kind addr size offset) = 3 ∧ faultCode (.txError v) = 4 ∧
    faultCode (.lockPoisoned op) = 5 ∧ faultCode (.fetch addr) = 6 ∧
    lockOpMnemonic .uartLdRhr = "UART.LD.RHR" ∧ lockOpMnemonic .uartStThr = "UART.ST.THR" ∧
    lockOpMnemonic .rxCheck = "RX.CHECK"

/-- R116: while the block is not faulted, its lock free and its output working, no well-formed operation but the four
faulting rows raises a fault, and every one answers a next state. -/
def Obligations.OrdinaryOperationsNeverFault : Prop :=
  ∀ (i : Instr) (s : State), s.Ready → s.txFails = false → i.wellFormed s.params = true →
    (∀ addr, i ≠ .fetchFault addr) → (∀ k addr size, i ≠ .busFaultUnmapped k addr size) →
    (∀ k addr size, i ≠ .busFaultWidth k addr size) → (∀ k addr size o, i ≠ .busFaultRange k addr size o) →
    ∃ t : State, exec i s = .next t ∧ t.fault = none ∧ t.poisoned = false

/-- R50: every UART offset that the address decode gives indexes a byte of `regs`. -/
def Obligations.UartOffsetsIndexTheRegisterFile : Prop :=
  ∀ (s : State) (addr o : Nat), s.Wf → decodeAddr s.params addr = .uart o → o < s.regs.length

/-- R57: a store uses `value[7:0]`; the bits above are ignored, and a load ignores `value` (the spec's
decision D16, log entry 16). -/
def Obligations.OnlyTheLowByteOfAStoreValueCounts : Prop :=
  ∀ (s : State) (addr size value : Nat),
    act (.fg (.bus .store addr size value)) s = act (.fg (.bus .store addr size (value % 256))) s ∧
    act (.fg (.bus .load addr size value)) s = act (.fg (.bus .load addr size 0)) s

/-- The model's choice (log entry 14): a meaning whose offset operand is outside its row is refused by name. -/
def Obligations.OperandsOutsideTheirRowAreRefused : Prop :=
  ∀ (s : State) (o : Nat) (v : Byte), s.fault = none →
    (¬s.params.PlainOffset o →
      exec (.uartLdReg o) s = .refused .operandOutsideRow ∧ exec (.uartStReg o v) s = .refused .operandOutsideRow) ∧
    (s.params.fbLen ≤ o →
      exec (.fbLd o) s = .refused .operandOutsideRow ∧ exec (.fbSt o v) s = .refused .operandOutsideRow)

/-- R75: keys written out from the operation map, under instance T of spec/95_test_vectors.md with the UART at 0x100
and the Pixel Store at 0x200, select the operations of their rows. -/
def Obligations.SampleKeysSelectTheirRows : Prop :=
  ∀ p : Params,
    p = { addrW := 16, uartBase := 0x100, uartSize := 8, fbBase := 0x200, fbWidth := 2, fbHeight := 2, mapGran := 32,
          fbWindow := 32, spuriousWake := false, resetDraw := false } →
    decode p (.fg (.bus .load 0x100 1 0)) = .ok .uartLdRhr ∧
    decode p (.fg (.bus .store 0x100 1 0x1FF)) = .ok (.uartStThr 0xFF) ∧
    decode p (.fg (.bus .store 0x105 1 0x20)) = .ok (.uartStLsr 0x20) ∧
    decode p (.fg (.bus .load 0x107 1 0)) = .ok (.uartLdReg 7) ∧
    decode p (.fg (.bus .load 0x108 1 0)) = .ok (.busFaultUnmapped .load 0x108 1) ∧
    decode p (.fg (.bus .load 0x100 0 0)) = .ok (.busFaultWidth .load 0x100 0) ∧
    decode p (.fg (.bus .store 0x20F 1 0xAB)) = .ok (.fbSt 15 0xAB) ∧
    decode p (.fg (.bus .store 0x210 1 0)) = .ok (.busFaultRange .store 0x210 1 16) ∧
    decode p (.fg (.bus .load 0x210 4 0)) = .ok (.busFaultWidth .load 0x210 4) ∧
    decode p (.fg (.fetch 0x100)) = .ok (.fetchFault 0x100) ∧
    decode p (.fg .poll) = .ok .irqPoll ∧
    decode p (.rx (.woken 0x42) none false) = .ok (.rxCheck 0x42) ∧
    decode p (.rx (.waiting 0x42) none false) = .error .holdWaiting

/-- R75, R81: decoding the key of a well-formed operation gives it back, for every operation and every operand. -/
def Obligations.DecodingAnEncodedOperationGivesItBack : Prop :=
  ∀ (p : Params) (i : Instr), p.Legal → i.wellFormed p = true → decode p (encode p i) = .ok i

/-- R75: every operation the decoder gives has the operands its row admits, where the switch in a producer key is the
configuration's. -/
def Obligations.DecodedOperationsAreWellFormed : Prop :=
  ∀ (p : Params) (k : Key) (i : Instr), p.Legal →
    (∀ (r : Rx) (e : Option InEvent) (sp : Bool), k = .rx r e sp → sp = p.spuriousWake) →
    decode p k = .ok i → i.wellFormed p = true

/-- R76: every key the block can be presented with selects an operation, where the switch is the one the key carries
(a `Waiting` key with its own switch on selects `RX.SPURIOUS` whatever `SPURIOUS_WAKE` is). That a key with an address
of more than `ADDR_W` bits, or of a fetch outside both windows, selects none is the model's choice (log entry 13). -/
def Obligations.ExactlyThePresentableKeysSelectAnOperation : Prop :=
  ∀ (p : Params) (k : Key), p.Legal → ((∃ i : Instr, decode p k = .ok i) ↔ k.wellFormed p = true)

/-! ### The step -/

/-- R51, R60, R73: the next move of the agenda that decodes to an operation runs that operation, on the state with
that move taken off the agenda; with nothing scheduled no agent moves (log entry 4). -/
def Obligations.StepRunsTheDecodedOperation : Prop :=
  ∀ s : State, s.fault = none →
    (∀ (m : Move) (rest : List Move) (k : Key) (i : Instr), s.agenda = m :: rest → moveKey m s = some k →
      decode s.params k = .ok i → step s = exec i { s with agenda := rest }) ∧
    (∀ (e : InEvent) (rest : List Move), s.agenda = .offer e :: rest →
      step s = .next { s with agenda := rest, rxin := s.rxin ++ [e], resp := .silent }) ∧
    (∀ (f : Bool) (rest : List Move), s.agenda = .output f :: rest →
      step s = .next { s with agenda := rest, txFails := f, resp := .silent }) ∧
    (s.agenda = [] → step s = .next { s with resp := .held })

/-- R60: a run of the machine is the run of its agenda, one move a step, in order. -/
def Obligations.RunsFollowTheAgenda : Prop :=
  ∀ (ms rest : List Move) (s t : State), runMoves ms s = .next t →
    Host.Core.run Sys2Proof.core ms.length { s with agenda := ms ++ rest } = .next { t with agenda := rest }

/-- R44: every step keeps a state well formed: legal and unchanged parameters and configuration, a register file of
`UART_SIZE` bytes, the Pixel Store in canonical form below `FB_LEN`, and the lock poisoned only by `TxError`. -/
def Obligations.StepKeepsTheStateWellFormed : Prop :=
  ∀ s t : State, s.Wf → step s = .next t → t.Wf ∧ t.params = s.params ∧ t.cfg = s.cfg

/-! ### Who writes what -/

/-- R24: `regs[0]` is written only by a delivery, and then it is the producer's byte. -/
def Obligations.OnlyADeliveryWritesTheReceiveByte : Prop :=
  ∀ (i : Instr) (s t : State), exec i s = .next t → t.reg 0 ≠ s.reg 0 →
    ∃ b : Byte, i = .rxCheck b ∧ (s.rx = .got b ∨ s.rx = .woken b) ∧ s.dr = false ∧ t.reg 0 = b

/-- R28: `LSR.DR` is written by exactly three actions: a delivery sets it, an RHR load clears it, and a store to
offset 5 sets it to bit 0 of the stored value. -/
def Obligations.DrHasExactlyThreeWriters : Prop :=
  ∀ (i : Instr) (s t : State), exec i s = .next t → t.dr ≠ s.dr →
    (∃ b : Byte, i = .rxCheck b ∧ t.dr = true ∧ t.reg 0 = b) ∨ (i = .uartLdRhr ∧ t.dr = false) ∨
    ∃ v : Byte, i = .uartStLsr v ∧ t.dr = v.getLsbD 0

/-- R29, R30: `LSR.THRE` and the unnamed LSR bits change only by a store to offset 5. -/
def Obligations.OtherLsrBitsChangeOnlyByAnLsrStore : Prop :=
  ∀ (i : Instr) (s t : State) (n : Nat), exec i s = .next t → n ≠ 0 → (t.reg 5).getLsbD n ≠ (s.reg 5).getLsbD n →
    ∃ v : Byte, i = .uartStLsr v ∧ t.reg 5 = v

/-- R32, R100: `irq` becomes true only by the deliver branch of `RX.CHECK` and false only by a poll. -/
def Obligations.IrqIsSetByDeliveryAndClearedByPoll : Prop :=
  ∀ (i : Instr) (s t : State), exec i s = .next t → t.irq ≠ s.irq →
    (∃ b : Byte, i = .rxCheck b ∧ s.dr = false ∧ t.irq = true) ∨ (i = .irqPoll ∧ t.irq = false ∧ t.resp = .polled true)

/-- R37, R43: `TX` is append-only, and only a THR store appends to it, its own byte. -/
def Obligations.OnlyThrStoresAppendToTx : Prop :=
  ∀ (i : Instr) (s t : State), exec i s = .next t → t.tx ≠ s.tx → ∃ v : Byte, i = .uartStThr v ∧ t.tx = s.tx ++ [v]

/-- R43, R106: a Pixel Store byte is written only by an FB store at its offset. -/
def Obligations.OnlyFbStoresWritePixelBytes : Prop :=
  ∀ (i : Instr) (s t : State) (o : Nat), exec i s = .next t → t.fbByte o ≠ s.fbByte o →
    ∃ v : Byte, i = .fbSt o v ∧ t.fbByte o = v

/-- R31: a plain register byte is written only by a store at its offset, and so is the LCR (R43). -/
def Obligations.PlainBytesChangeOnlyByTheirStore : Prop :=
  ∀ (i : Instr) (s t : State) (o : Nat), exec i s = .next t → o ≠ 0 → o ≠ 5 → t.reg o ≠ s.reg o →
    ∃ v : Byte, (i = .uartStReg o v ∨ (o = 3 ∧ i = .uartStLcr v)) ∧ t.reg o = v

/-- R127: the lock becomes poisoned only by a THR store that raises `TxError`, and `LockPoisoned` arises only while
it is poisoned. -/
def Obligations.OnlyTxErrorPoisonsTheLock : Prop :=
  ∀ (i : Instr) (s t : State), exec i s = .next t →
    (t.poisoned ≠ s.poisoned → t.poisoned = true ∧ ∃ v : Byte, i = .uartStThr v ∧ t.fault = some (.txError v)) ∧
    (∀ op : LockOp, t.fault = some (.lockPoisoned op) → s.poisoned = true)

/-- R43, the frame of the producer's steps and of the poll: registers other than the RHR and the LSR, the Pixel Store,
`TX` and the configuration are as they were; only `RX.CHECK` touches the two registers. -/
def Obligations.ProducerAndPollFrame : Prop :=
  ∀ (i : Instr) (s t : State) (b : Byte),
    i ∈ [Instr.rxReadByte b, .rxReadErr, .rxReadEnd, .rxCheck b, .rxSpurious b, .irqPoll] →
    exec i s = .next t →
    (∀ o, o ≠ 0 → o ≠ 5 → t.reg o = s.reg o) ∧ (i ≠ .rxCheck b → ∀ o, t.reg o = s.reg o) ∧
    (∀ o, t.fbByte o = s.fbByte o) ∧ t.fb = s.fb ∧ t.tx = s.tx ∧ t.cfg = s.cfg ∧ t.params = s.params ∧
    t.poisoned = s.poisoned ∧ t.txFails = s.txFails ∧ t.agenda = s.agenda ∧
    (i = .irqPoll → t.rx = s.rx ∧ t.rxin = s.rxin ∧ t.fault = s.fault)

/-- R58, the frame of the accesses with no side effect and of the RHR load: no byte of the Pixel Store and no `TX`
byte changes, `irq` is kept, and the register bytes are kept but for bit 0 of the LSR under an RHR load. -/
def Obligations.LoadAndRefreshFrame : Prop :=
  ∀ (i : Instr) (s t : State) (o : Nat),
    i ∈ [Instr.uartLdRhr, .uartLdLcr, .uartLdLsr, .uartLdReg o, .fbLd o, .fbRefresh] →
    exec i s = .next t →
    (∀ k, t.fbByte k = s.fbByte k) ∧ t.fb = s.fb ∧ t.tx = s.tx ∧ t.irq = s.irq ∧ t.poisoned = s.poisoned ∧
    t.cfg = s.cfg ∧ t.params = s.params ∧ t.rxin = s.rxin ∧ t.txFails = s.txFails ∧ t.agenda = s.agenda ∧
    (∀ k, k ≠ 5 → t.reg k = s.reg k) ∧ (∀ n, n ≠ 0 → (t.reg 5).getLsbD n = (s.reg 5).getLsbD n) ∧
    (i ≠ .uartLdRhr → t.regs = s.regs ∧ t.rx = s.rx)

/-! ### Laws of the register file and the handshake -/

/-- R91: for every UART offset but 0, a store followed by a load returns the byte stored; the run completes. -/
def Obligations.UartStoreThenLoadReturnsTheByte : Prop :=
  ∀ (s : State) (o : Nat) (v : Byte), s.Wf → s.Ready → o ≠ 0 → o < s.params.uartSize →
    runMoves [st (s.params.uartBase + o) v, ld (s.params.uartBase + o)] s =
      .next { s with regs := s.regs.set o v, resp := .rdata v }

/-- R91: if a delivery falls between an LSR store and the load, the load returns `v | 0x01`. -/
def Obligations.DeliveryBetweenLsrStoreAndLoadShowsDr : Prop :=
  ∀ (s : State) (v b : Byte), s.Wf → s.Ready → (s.rx = .got b ∨ s.rx = .woken b) → v.getLsbD 0 = false →
    ∃ t : State, runMoves [st (s.params.uartBase + 5) v, .bg, ld (s.params.uartBase + 5)] s = .next t ∧
      t.resp = .rdata (v ||| 0x01) ∧ t.reg 0 = b ∧ t.irq = true

/-- R91, R139: offset 0 is not a round trip: a store emits its byte, and the load returns the `regs[0]` of before. -/
def Obligations.OffsetZeroIsNotARoundTrip : Prop :=
  ∀ (s : State) (v : Byte), s.Wf → s.Ready → s.txFails = false →
    ∃ t : State, runMoves [st s.params.uartBase v, ld s.params.uartBase] s = .next t ∧
      t.resp = .rdata (s.reg 0) ∧ t.tx = s.tx ++ [v] ∧ t.reg 0 = s.reg 0

/-- R91: two loads of the same offset, with no step between, return the same byte, and the second leaves `LSR.DR` 0
at offset 0. -/
def Obligations.RepeatedUartLoadsReturnTheSameByte : Prop :=
  ∀ (s : State) (o : Nat), s.Wf → s.Ready → o < s.params.uartSize →
    ∃ t u : State, act (ld (s.params.uartBase + o)) s = .next t ∧ act (ld (s.params.uartBase + o)) t = .next u ∧
      u = t ∧ (o = 0 → u.dr = false)

/-- R91: stores to distinct offsets commute, a THR store among them. -/
def Obligations.StoresToDistinctUartOffsetsCommute : Prop :=
  ∀ (s : State) (o o' : Nat) (v v' : Byte), s.Wf → s.Ready → s.txFails = false → o ≠ o' →
    o < s.params.uartSize → o' < s.params.uartSize →
    ∃ t : State, runMoves [st (s.params.uartBase + o) v, st (s.params.uartBase + o') v'] s = .next t ∧
      runMoves [st (s.params.uartBase + o') v', st (s.params.uartBase + o) v] s = .next t

/-- R118: the outcomes of the pairs of steps that interact, in either order. -/
def Obligations.InterleavedPairsHaveTheStatedOutcomes : Prop :=
  ∀ (s : State) (b : Byte), s.Wf → s.Ready → s.rx = .got b →
    (s.dr = true →
      (∃ t : State, execAll [.uartLdRhr, .rxCheck b] s = .next t ∧ t.reg 0 = b ∧ t.dr = true ∧ t.rx = .reading) ∧
      (∃ t : State, execAll [.rxCheck b, .uartLdRhr] s = .next t ∧ t.rx = .woken b ∧ t.dr = false ∧
        ∃ u : State, exec (.rxCheck b) t = .next u ∧ u.reg 0 = b ∧ u.dr = true ∧ u.rx = .reading) ∧
      ∀ v : Byte, v.getLsbD 0 = false →
        (∃ t : State, execAll [.uartStLsr v, .rxCheck b] s = .next t ∧ t.reg 0 = b ∧ t.dr = true) ∧
        (∃ t : State, execAll [.rxCheck b, .uartStLsr v] s = .next t ∧ t.rx = .waiting b ∧ t.dr = false ∧
          t.reg 0 = s.reg 0)) ∧
    (s.dr = false →
      (∃ t u : State, exec .irqPoll s = .next t ∧ t.resp = .polled s.irq ∧ exec (.rxCheck b) t = .next u ∧ u.irq = true) ∧
      (∃ t : State, execAll [.rxCheck b, .irqPoll] s = .next t ∧ t.resp = .polled true ∧ t.irq = false) ∧
      ∀ v : Byte, v.getLsbD 0 = true →
        (∃ t : State, execAll [.uartStLsr v, .rxCheck b] s = .next t ∧ t.rx = .waiting b) ∧
        (∃ t : State, execAll [.rxCheck b, .uartStLsr v] s = .next t ∧ t.reg 0 = b ∧ t.reg 5 = v ∧ t.dr = true))

/-- R118: a refresh after an FB store shows the new byte, and one before it the old byte. -/
def Obligations.RefreshShowsTheStoresBeforeIt : Prop :=
  ∀ (s : State) (p k : Nat) (v : Byte), s.Wf → s.fault = none → p < s.cfg.width * s.cfg.height → k < 4 →
    (∃ (t : State) (x : Pixel) (px : List Pixel),
      execAll [.fbSt (4 * p + k) v, .fbRefresh] s = .next t ∧ t.resp = .frame px s.cfg.width s.cfg.height ∧
      px[p]? = some x ∧ x.extractLsb' (8 * k) 8 = v) ∧
    (∃ (t : State) (x : Pixel) (px : List Pixel),
      exec .fbRefresh s = .next t ∧ t.resp = .frame px s.cfg.width s.cfg.height ∧
      px[p]? = some x ∧ x.extractLsb' (8 * k) 8 = s.fbByte (4 * p + k))

/-- R101: in every run with no store to offset 5, a producer waits only while `LSR.DR` is 1, and `LSR.DR` is 1 exactly
when a delivery has happened and no RHR load has come after it. -/
def Obligations.DrIsOneExactlyWhileAByteIsUnread : Prop :=
  ∀ (ms : List Move) (s t : State), s.Wf → s.Mailbox → NoLsrStore s.params ms → runMoves ms s = .next t →
    t.Mailbox ∧ t.dr = unreadAfter ms s s.dr

/-- R103: with no end of input, the bytes delivered, then the byte the producer holds, then the bytes still offered,
are the byte held at the start followed by the bytes offered, in order: none is dropped and none repeated. -/
def Obligations.BytesAreDeliveredInOrderOnceEach : Prop :=
  ∀ (ms : List Move) (s t : State), InEvent.inEnd ∉ s.rxin → InEvent.inEnd ∉ offersOf ms → runMoves ms s = .next t →
    deliveries ms s ++ heldBytes t.rx ++ inBytes t.rxin = heldBytes s.rx ++ inBytes s.rxin ++ inBytes (offersOf ms)

/-- R104: the polls that return `true`, the deliveries that coalesce and the indication still pending account for the
deliveries of a run; so there are at most as many true polls as deliveries, and as many when none coalesces and none
is pending. -/
def Obligations.TruePollsAccountForDeliveries : Prop :=
  ∀ (ms : List Move) (s t : State), runMoves ms s = .next t →
    truePolls ms s + coalesced ms s + (if t.irq then 1 else 0) =
      (deliveries ms s).length + (if s.irq then 1 else 0)

/-- R102: under weak fairness, in a run that never faults, a producer in `Got` or `Woken` comes to take its check, and
a `Reading` producer with an event offered comes to take its read (fairness is the spec's decision D29, log entry 20). -/
def Obligations.FairProducerTakesItsStep : Prop :=
  ∀ (schedule : Nat → Move) (s : State), WeaklyFair schedule s →
    (∀ n, ∃ t : State, runTo schedule s n = .next t ∧ t.fault = none) →
    ∀ (n : Nat) (t : State), runTo schedule s n = .next t →
      (checkEnabled t = true →
        ∃ (m : Nat) (u : State), n ≤ m ∧ schedule m = .bg ∧ runTo schedule s m = .next u ∧ u.rx = t.rx) ∧
      (readEnabled t = true →
        ∃ (m : Nat) (u : State), n ≤ m ∧ schedule m = .bg ∧ runTo schedule s m = .next u ∧ u.rx = .reading ∧
          u.rxin.head? = t.rxin.head?)
end

