-- ==== Sys2Proof/Laws/Decode.lean ====
section
/-! SUPPORT. The small lemmas of the binder's address decode and of the configuration. -/

namespace Sys2Proof

/-- The configuration after reset is a legal one, with both model switches at their default. -/
theorem Config.params_legal : Config.params.Legal ∧ Config.params.spuriousWake = false ∧ Config.params.resetDraw = false := by
  unfold Config.params
  split
  · next h => exact ⟨h, rfl, rfl⟩
  · exact ⟨by decide, rfl, rfl⟩

theorem decodeAddr_uart {p : Params} {addr : Nat} (h : p.InUart addr) :
    decodeAddr p addr = .uart (addr - p.uartBase) := if_pos h

theorem decodeAddr_fb {p : Params} {addr : Nat} (hu : ¬p.InUart addr) (h : p.InFb addr) :
    decodeAddr p addr = .fb (addr - p.fbBase) := by
  unfold decodeAddr; rw [if_neg hu, if_pos h]

theorem decodeAddr_unmapped {p : Params} {addr : Nat} (hu : ¬p.InUart addr) (hf : ¬p.InFb addr) :
    decodeAddr p addr = .unmapped := by
  unfold decodeAddr; rw [if_neg hu, if_neg hf]

/-- Everything `decodeAddr` can answer (R49). -/
theorem decodeAddr_cases (p : Params) (addr : Nat) :
    (p.InUart addr ∧ decodeAddr p addr = .uart (addr - p.uartBase)) ∨
      (¬p.InUart addr ∧ p.InFb addr ∧ decodeAddr p addr = .fb (addr - p.fbBase)) ∨
      (¬p.InUart addr ∧ ¬p.InFb addr ∧ decodeAddr p addr = .unmapped) := by
  by_cases hu : p.InUart addr
  · exact .inl ⟨hu, decodeAddr_uart hu⟩
  · by_cases hf : p.InFb addr
    · exact .inr (.inl ⟨hu, hf, decodeAddr_fb hu hf⟩)
    · exact .inr (.inr ⟨hu, hf, decodeAddr_unmapped hu hf⟩)

/-- The windows of a legal configuration are disjoint (R7). -/
theorem Params.Legal.disjoint {p : Params} (h : p.Legal) {addr : Nat} (hf : p.InFb addr) : ¬p.InUart addr := by
  obtain ⟨_, _, _, _, _, _, _, _, hd⟩ := h
  simp only [Params.InUart, Params.InFb] at *
  omega

/-- An address in a window has `ADDR_W` bits (R7). -/
theorem Params.Legal.addr_lt {p : Params} (h : p.Legal) {addr : Nat} (hw : p.InUart addr ∨ p.InFb addr) :
    addr < 2 ^ p.addrW := by
  obtain ⟨_, _, _, _, _, _, hu, hb, _⟩ := h
  simp only [Params.InUart, Params.InFb] at *
  omega

@[simp] theorem lowByte_toNat (v : Byte) : lowByte v.toNat = v := by simp [lowByte]

theorem Params.Legal.inUart {p : Params} {o : Nat} (_ : p.Legal) (ho : o < p.uartSize) : p.InUart (p.uartBase + o) := by
  simp only [Params.InUart]; omega

theorem Params.Legal.inFb {p : Params} (h : p.Legal) {o : Nat} (ho : o < p.fbLen) : p.InFb (p.fbBase + o) := by
  obtain ⟨_, _, _, _, hw, _⟩ := h
  simp only [Params.InFb]; omega

/-- A plain offset lies in the UART window of a legal configuration. -/
theorem Params.Legal.plainOffset_lt {p : Params} (h : p.Legal) {o : Nat} (ho : p.PlainOffset o) : o < p.uartSize := by
  obtain ⟨h6, _⟩ := h
  simp only [Params.PlainOffset] at ho
  omega

/-- A one-byte access at UART offset `o` selects the row of that offset (R75 rows 5 to 12). -/
theorem decode_uart {p : Params} (h : p.Legal) {o : Nat} (ho : o < p.uartSize) (kind : AccessKind) (value : Nat) :
    decode p (.fg (.bus kind (p.uartBase + o) 1 value)) = .ok (decodeUart kind o (lowByte value)) := by
  have hu := h.inUart ho
  have hlt := h.addr_lt (.inl hu)
  simp only [decode, if_neg (Nat.not_le.2 hlt), decodeBus, decodeAddr_uart hu, accessSize, ne_eq, not_true_eq_false,
    ↓reduceIte, Nat.add_sub_cancel_left]

/-- A one-byte access at Pixel Store offset `o` selects `FB.LD` or `FB.ST` (R75 rows 13 and 14). -/
theorem decode_fb {p : Params} (h : p.Legal) {o : Nat} (ho : o < p.fbLen) (kind : AccessKind) (value : Nat) :
    decode p (.fg (.bus kind (p.fbBase + o) 1 value)) = .ok (decodeFb kind o (lowByte value)) := by
  have hf := h.inFb ho
  have hlt := h.addr_lt (.inr hf)
  simp only [decode, if_neg (Nat.not_le.2 hlt), decodeBus, decodeAddr_fb (h.disjoint hf) hf, accessSize, ne_eq,
    not_true_eq_false, ↓reduceIte, Nat.add_sub_cancel_left, if_neg (Nat.not_le.2 ho)]

end Sys2Proof
end

