-- ==== Sys2Proof/Laws/Memory.lean ====
section
/-! SUPPORT. The laws of sparse storage: read after write, and every write keeps the canonical form. -/

namespace Sys2Proof.Machine

theorem memRead_memPut (base : Nat → Byte) (m : Memory) (o : Nat) (v : Byte) (k : Nat) :
    memRead base (memPut m o v) k = if k = o then v else memRead base m k := by
  induction m with
  | nil =>
    by_cases h : k = o
    · subst h; simp [memPut, memRead]
    · simp only [memPut, memRead, if_neg (Ne.symm h), if_neg h]
  | cons c rest ih =>
    obtain ⟨a, b⟩ := c
    by_cases hk : k = o
    · subst hk
      simp only [memPut, ↓reduceIte]
      split
      · simp [memRead]
      · split
        · simp [memRead]
        · next hne => rw [memRead, if_neg fun h => hne h.symm, ih, if_pos rfl]
    · simp only [memPut, hk, ↓reduceIte]
      split
      · rw [memRead, if_neg fun h => hk h.symm]
      · split
        · next he => rw [memRead, memRead, if_neg fun h => hk h.symm, if_neg fun h => hk (h.symm.trans he.symm)]
        · rw [memRead, memRead, ih, if_neg hk]

theorem memRead_filter (base : Nat → Byte) (m : Memory) (o k : Nat) :
    memRead base (m.filter (fun c => c.1 ≠ o)) k = if k = o then base o else memRead base m k := by
  induction m with
  | nil => simp only [List.filter_nil, memRead]; split <;> simp_all
  | cons c rest ih =>
    obtain ⟨a, b⟩ := c
    by_cases h : a = o
    · subst h; simp only [ne_eq, not_true_eq_false, decide_false, Bool.false_eq_true, not_false_eq_true,
        List.filter_cons_of_neg]
      rw [show (fun c : Host.Cell => decide ¬c.1 = a) = fun c => decide (c.1 ≠ a) from rfl, ih, memRead]
      split <;> simp_all [eq_comm]
    · simp only [ne_eq, h, not_false_eq_true, decide_true, List.filter_cons_of_pos, memRead]
      rw [show (fun c : Host.Cell => decide ¬c.1 = o) = fun c => decide (c.1 ≠ o) from rfl, ih]
      split <;> simp_all

/-- A read after a write gives the byte written at that offset and what was there before at every other. -/
theorem memRead_memWrite (base : Nat → Byte) (m : Memory) (o : Nat) (v : Byte) (k : Nat) :
    memRead base (memWrite base m o v) k = if k = o then v else memRead base m k := by
  unfold memWrite
  split
  · rw [memRead_filter]; simp_all
  · exact memRead_memPut base m o v k

theorem mem_memPut {m : Memory} {o : Nat} {v : Byte} {c : Host.Cell} (h : c ∈ memPut m o v) :
    c = (o, v) ∨ c ∈ m := by
  induction m with
  | nil => simpa [memPut] using h
  | cons d rest ih =>
    obtain ⟨a, b⟩ := d
    simp only [memPut] at h
    split at h
    · simpa using h
    · split at h
      · rcases List.mem_cons.1 h with h | h
        · exact .inl h
        · exact .inr (List.mem_cons_of_mem _ h)
      · rcases List.mem_cons.1 h with h | h
        · exact .inr (h ▸ List.mem_cons_self)
        · exact (ih h).imp_right (List.mem_cons_of_mem _)

theorem memPut_sorted {m : Memory} (o : Nat) (v : Byte) (h : m.Pairwise (fun c d => c.1 < d.1)) :
    (memPut m o v).Pairwise (fun c d => c.1 < d.1) := by
  induction m with
  | nil => simp [memPut]
  | cons d rest ih =>
    obtain ⟨a, b⟩ := d
    obtain ⟨ha, hr⟩ := List.pairwise_cons.1 h
    simp only [memPut]
    split
    · next hlt =>
      refine List.pairwise_cons.2 ⟨fun c hc => ?_, h⟩
      rcases List.mem_cons.1 hc with rfl | hc
      · exact hlt
      · exact lt_trans hlt (ha c hc)
    · split
      · next heq => subst heq; exact List.pairwise_cons.2 ⟨ha, hr⟩
      · refine List.pairwise_cons.2 ⟨fun c hc => ?_, ih hr⟩
        rcases mem_memPut hc with rfl | hc
        · simp only; omega
        · exact ha c hc

/-- Every cell of the storage after a write is the one written or one that was listed. -/
theorem mem_memWrite {base : Nat → Byte} {m : Memory} {o : Nat} {v : Byte} {c : Host.Cell}
    (h : c ∈ memWrite base m o v) : c = (o, v) ∨ c ∈ m := by
  unfold memWrite at h
  split at h
  · exact .inr (List.mem_of_mem_filter h)
  · exact mem_memPut h

/-- A write keeps the canonical form. -/
theorem memWrite_wf {base : Nat → Byte} {m : Memory} (o : Nat) (v : Byte) (h : m.wf base) :
    Memory.wf base (memWrite base m o v) := by
  obtain ⟨hs, hb⟩ := h
  by_cases hv : v = base o
  · simp only [memWrite, hv, ↓reduceIte]
    exact ⟨hs.filter _, fun c hc => hb c (List.mem_of_mem_filter hc)⟩
  · simp only [memWrite, hv, ↓reduceIte]
    refine ⟨memPut_sorted o v hs, fun c hc => ?_⟩
    rcases mem_memPut hc with rfl | hc
    · exact hv
    · exact hb c hc

/-- A write below a bound keeps every listed offset below it. -/
theorem memWrite_below {base : Nat → Byte} {m : Memory} {o n : Nat} (v : Byte) (ho : o < n)
    (h : ∀ c ∈ m, c.1 < n) : ∀ c ∈ memWrite base m o v, c.1 < n := by
  intro c hc
  rcases mem_memWrite hc with rfl | hc
  · exact ho
  · exact h c hc

theorem memRead_of_forall_ne {base : Nat → Byte} {m : Memory} {k : Nat} (h : ∀ c ∈ m, c.1 ≠ k) :
    memRead base m k = base k := by
  induction m with
  | nil => rfl
  | cons d rest ih =>
    obtain ⟨a, b⟩ := d
    rw [memRead, if_neg (h (a, b) List.mem_cons_self), ih fun c hc => h c (List.mem_cons_of_mem _ hc)]

/-- The reset Pixel Store is in canonical form. -/
theorem construct_fb_wf (p : Params) : (State.construct p).fb.wf p.pixelReset :=
  ⟨List.Pairwise.nil, fun c hc => by simp [State.construct] at hc⟩

theorem State.fbByte_setFbByte (s : State) (o : Nat) (v : Byte) (k : Nat) :
    (s.setFbByte o v).fbByte k = if k = o then v else s.fbByte k :=
  memRead_memWrite _ _ _ _ _

end Sys2Proof.Machine
end

