-- ==== Sys2Proof/Laws/State.lean ====
section
/-! SUPPORT. What each named update of `State` does to each field, true by definition, so that no proof unfolds a
record update; and the accessors over them. -/

namespace Sys2Proof.Machine

/-! ### `State.setReg` -/

@[simp] theorem State.setReg_params (s : State) (o : Nat) (v : Byte) : (s.setReg o v).params = s.params := rfl
@[simp] theorem State.setReg_regs (s : State) (o : Nat) (v : Byte) : (s.setReg o v).regs = s.regs.set o v := rfl
@[simp] theorem State.setReg_irq (s : State) (o : Nat) (v : Byte) : (s.setReg o v).irq = s.irq := rfl
@[simp] theorem State.setReg_poisoned (s : State) (o : Nat) (v : Byte) : (s.setReg o v).poisoned = s.poisoned := rfl
@[simp] theorem State.setReg_rx (s : State) (o : Nat) (v : Byte) : (s.setReg o v).rx = s.rx := rfl
@[simp] theorem State.setReg_fb (s : State) (o : Nat) (v : Byte) : (s.setReg o v).fb = s.fb := rfl
@[simp] theorem State.setReg_cfg (s : State) (o : Nat) (v : Byte) : (s.setReg o v).cfg = s.cfg := rfl
@[simp] theorem State.setReg_tx (s : State) (o : Nat) (v : Byte) : (s.setReg o v).tx = s.tx := rfl
@[simp] theorem State.setReg_fault (s : State) (o : Nat) (v : Byte) : (s.setReg o v).fault = s.fault := rfl
@[simp] theorem State.setReg_resp (s : State) (o : Nat) (v : Byte) : (s.setReg o v).resp = s.resp := rfl
@[simp] theorem State.setReg_rxin (s : State) (o : Nat) (v : Byte) : (s.setReg o v).rxin = s.rxin := rfl
@[simp] theorem State.setReg_txFails (s : State) (o : Nat) (v : Byte) : (s.setReg o v).txFails = s.txFails := rfl
@[simp] theorem State.setReg_agenda (s : State) (o : Nat) (v : Byte) : (s.setReg o v).agenda = s.agenda := rfl
@[simp] theorem State.setReg_draws (s : State) (o : Nat) (v : Byte) : (s.setReg o v).draws = s.draws := rfl

/-! ### `State.setFbByte` -/

@[simp] theorem State.setFbByte_params (s : State) (o : Nat) (v : Byte) : (s.setFbByte o v).params = s.params := rfl
@[simp] theorem State.setFbByte_regs (s : State) (o : Nat) (v : Byte) : (s.setFbByte o v).regs = s.regs := rfl
@[simp] theorem State.setFbByte_irq (s : State) (o : Nat) (v : Byte) : (s.setFbByte o v).irq = s.irq := rfl
@[simp] theorem State.setFbByte_poisoned (s : State) (o : Nat) (v : Byte) : (s.setFbByte o v).poisoned = s.poisoned := rfl
@[simp] theorem State.setFbByte_rx (s : State) (o : Nat) (v : Byte) : (s.setFbByte o v).rx = s.rx := rfl
@[simp] theorem State.setFbByte_fb (s : State) (o : Nat) (v : Byte) : (s.setFbByte o v).fb = memWrite s.params.pixelReset s.fb o v := rfl
@[simp] theorem State.setFbByte_cfg (s : State) (o : Nat) (v : Byte) : (s.setFbByte o v).cfg = s.cfg := rfl
@[simp] theorem State.setFbByte_tx (s : State) (o : Nat) (v : Byte) : (s.setFbByte o v).tx = s.tx := rfl
@[simp] theorem State.setFbByte_fault (s : State) (o : Nat) (v : Byte) : (s.setFbByte o v).fault = s.fault := rfl
@[simp] theorem State.setFbByte_resp (s : State) (o : Nat) (v : Byte) : (s.setFbByte o v).resp = s.resp := rfl
@[simp] theorem State.setFbByte_rxin (s : State) (o : Nat) (v : Byte) : (s.setFbByte o v).rxin = s.rxin := rfl
@[simp] theorem State.setFbByte_txFails (s : State) (o : Nat) (v : Byte) : (s.setFbByte o v).txFails = s.txFails := rfl
@[simp] theorem State.setFbByte_agenda (s : State) (o : Nat) (v : Byte) : (s.setFbByte o v).agenda = s.agenda := rfl
@[simp] theorem State.setFbByte_draws (s : State) (o : Nat) (v : Byte) : (s.setFbByte o v).draws = s.draws := rfl

/-! ### `State.setIrq` -/

@[simp] theorem State.setIrq_params (s : State) (b : Bool) : (s.setIrq b).params = s.params := rfl
@[simp] theorem State.setIrq_regs (s : State) (b : Bool) : (s.setIrq b).regs = s.regs := rfl
@[simp] theorem State.setIrq_irq (s : State) (b : Bool) : (s.setIrq b).irq = b := rfl
@[simp] theorem State.setIrq_poisoned (s : State) (b : Bool) : (s.setIrq b).poisoned = s.poisoned := rfl
@[simp] theorem State.setIrq_rx (s : State) (b : Bool) : (s.setIrq b).rx = s.rx := rfl
@[simp] theorem State.setIrq_fb (s : State) (b : Bool) : (s.setIrq b).fb = s.fb := rfl
@[simp] theorem State.setIrq_cfg (s : State) (b : Bool) : (s.setIrq b).cfg = s.cfg := rfl
@[simp] theorem State.setIrq_tx (s : State) (b : Bool) : (s.setIrq b).tx = s.tx := rfl
@[simp] theorem State.setIrq_fault (s : State) (b : Bool) : (s.setIrq b).fault = s.fault := rfl
@[simp] theorem State.setIrq_resp (s : State) (b : Bool) : (s.setIrq b).resp = s.resp := rfl
@[simp] theorem State.setIrq_rxin (s : State) (b : Bool) : (s.setIrq b).rxin = s.rxin := rfl
@[simp] theorem State.setIrq_txFails (s : State) (b : Bool) : (s.setIrq b).txFails = s.txFails := rfl
@[simp] theorem State.setIrq_agenda (s : State) (b : Bool) : (s.setIrq b).agenda = s.agenda := rfl
@[simp] theorem State.setIrq_draws (s : State) (b : Bool) : (s.setIrq b).draws = s.draws := rfl

/-! ### `State.setPoisoned` -/

@[simp] theorem State.setPoisoned_params (s : State) (b : Bool) : (s.setPoisoned b).params = s.params := rfl
@[simp] theorem State.setPoisoned_regs (s : State) (b : Bool) : (s.setPoisoned b).regs = s.regs := rfl
@[simp] theorem State.setPoisoned_irq (s : State) (b : Bool) : (s.setPoisoned b).irq = s.irq := rfl
@[simp] theorem State.setPoisoned_poisoned (s : State) (b : Bool) : (s.setPoisoned b).poisoned = b := rfl
@[simp] theorem State.setPoisoned_rx (s : State) (b : Bool) : (s.setPoisoned b).rx = s.rx := rfl
@[simp] theorem State.setPoisoned_fb (s : State) (b : Bool) : (s.setPoisoned b).fb = s.fb := rfl
@[simp] theorem State.setPoisoned_cfg (s : State) (b : Bool) : (s.setPoisoned b).cfg = s.cfg := rfl
@[simp] theorem State.setPoisoned_tx (s : State) (b : Bool) : (s.setPoisoned b).tx = s.tx := rfl
@[simp] theorem State.setPoisoned_fault (s : State) (b : Bool) : (s.setPoisoned b).fault = s.fault := rfl
@[simp] theorem State.setPoisoned_resp (s : State) (b : Bool) : (s.setPoisoned b).resp = s.resp := rfl
@[simp] theorem State.setPoisoned_rxin (s : State) (b : Bool) : (s.setPoisoned b).rxin = s.rxin := rfl
@[simp] theorem State.setPoisoned_txFails (s : State) (b : Bool) : (s.setPoisoned b).txFails = s.txFails := rfl
@[simp] theorem State.setPoisoned_agenda (s : State) (b : Bool) : (s.setPoisoned b).agenda = s.agenda := rfl
@[simp] theorem State.setPoisoned_draws (s : State) (b : Bool) : (s.setPoisoned b).draws = s.draws := rfl

/-! ### `State.setRx` -/

@[simp] theorem State.setRx_params (s : State) (r : Rx) : (s.setRx r).params = s.params := rfl
@[simp] theorem State.setRx_regs (s : State) (r : Rx) : (s.setRx r).regs = s.regs := rfl
@[simp] theorem State.setRx_irq (s : State) (r : Rx) : (s.setRx r).irq = s.irq := rfl
@[simp] theorem State.setRx_poisoned (s : State) (r : Rx) : (s.setRx r).poisoned = s.poisoned := rfl
@[simp] theorem State.setRx_rx (s : State) (r : Rx) : (s.setRx r).rx = r := rfl
@[simp] theorem State.setRx_fb (s : State) (r : Rx) : (s.setRx r).fb = s.fb := rfl
@[simp] theorem State.setRx_cfg (s : State) (r : Rx) : (s.setRx r).cfg = s.cfg := rfl
@[simp] theorem State.setRx_tx (s : State) (r : Rx) : (s.setRx r).tx = s.tx := rfl
@[simp] theorem State.setRx_fault (s : State) (r : Rx) : (s.setRx r).fault = s.fault := rfl
@[simp] theorem State.setRx_resp (s : State) (r : Rx) : (s.setRx r).resp = s.resp := rfl
@[simp] theorem State.setRx_rxin (s : State) (r : Rx) : (s.setRx r).rxin = s.rxin := rfl
@[simp] theorem State.setRx_txFails (s : State) (r : Rx) : (s.setRx r).txFails = s.txFails := rfl
@[simp] theorem State.setRx_agenda (s : State) (r : Rx) : (s.setRx r).agenda = s.agenda := rfl
@[simp] theorem State.setRx_draws (s : State) (r : Rx) : (s.setRx r).draws = s.draws := rfl

/-! ### `State.pushTx` -/

@[simp] theorem State.pushTx_params (s : State) (v : Byte) : (s.pushTx v).params = s.params := rfl
@[simp] theorem State.pushTx_regs (s : State) (v : Byte) : (s.pushTx v).regs = s.regs := rfl
@[simp] theorem State.pushTx_irq (s : State) (v : Byte) : (s.pushTx v).irq = s.irq := rfl
@[simp] theorem State.pushTx_poisoned (s : State) (v : Byte) : (s.pushTx v).poisoned = s.poisoned := rfl
@[simp] theorem State.pushTx_rx (s : State) (v : Byte) : (s.pushTx v).rx = s.rx := rfl
@[simp] theorem State.pushTx_fb (s : State) (v : Byte) : (s.pushTx v).fb = s.fb := rfl
@[simp] theorem State.pushTx_cfg (s : State) (v : Byte) : (s.pushTx v).cfg = s.cfg := rfl
@[simp] theorem State.pushTx_tx (s : State) (v : Byte) : (s.pushTx v).tx = s.tx ++ [v] := rfl
@[simp] theorem State.pushTx_fault (s : State) (v : Byte) : (s.pushTx v).fault = s.fault := rfl
@[simp] theorem State.pushTx_resp (s : State) (v : Byte) : (s.pushTx v).resp = s.resp := rfl
@[simp] theorem State.pushTx_rxin (s : State) (v : Byte) : (s.pushTx v).rxin = s.rxin := rfl
@[simp] theorem State.pushTx_txFails (s : State) (v : Byte) : (s.pushTx v).txFails = s.txFails := rfl
@[simp] theorem State.pushTx_agenda (s : State) (v : Byte) : (s.pushTx v).agenda = s.agenda := rfl
@[simp] theorem State.pushTx_draws (s : State) (v : Byte) : (s.pushTx v).draws = s.draws := rfl

/-! ### `State.setFault` -/

@[simp] theorem State.setFault_params (s : State) (f : Fault) : (s.setFault f).params = s.params := rfl
@[simp] theorem State.setFault_regs (s : State) (f : Fault) : (s.setFault f).regs = s.regs := rfl
@[simp] theorem State.setFault_irq (s : State) (f : Fault) : (s.setFault f).irq = s.irq := rfl
@[simp] theorem State.setFault_poisoned (s : State) (f : Fault) : (s.setFault f).poisoned = s.poisoned := rfl
@[simp] theorem State.setFault_rx (s : State) (f : Fault) : (s.setFault f).rx = s.rx := rfl
@[simp] theorem State.setFault_fb (s : State) (f : Fault) : (s.setFault f).fb = s.fb := rfl
@[simp] theorem State.setFault_cfg (s : State) (f : Fault) : (s.setFault f).cfg = s.cfg := rfl
@[simp] theorem State.setFault_tx (s : State) (f : Fault) : (s.setFault f).tx = s.tx := rfl
@[simp] theorem State.setFault_fault (s : State) (f : Fault) : (s.setFault f).fault = some f := rfl
@[simp] theorem State.setFault_resp (s : State) (f : Fault) : (s.setFault f).resp = s.resp := rfl
@[simp] theorem State.setFault_rxin (s : State) (f : Fault) : (s.setFault f).rxin = s.rxin := rfl
@[simp] theorem State.setFault_txFails (s : State) (f : Fault) : (s.setFault f).txFails = s.txFails := rfl
@[simp] theorem State.setFault_agenda (s : State) (f : Fault) : (s.setFault f).agenda = s.agenda := rfl
@[simp] theorem State.setFault_draws (s : State) (f : Fault) : (s.setFault f).draws = s.draws := rfl

/-! ### `State.respond` -/

@[simp] theorem State.respond_params (s : State) (r : Response) : (s.respond r).params = s.params := rfl
@[simp] theorem State.respond_regs (s : State) (r : Response) : (s.respond r).regs = s.regs := rfl
@[simp] theorem State.respond_irq (s : State) (r : Response) : (s.respond r).irq = s.irq := rfl
@[simp] theorem State.respond_poisoned (s : State) (r : Response) : (s.respond r).poisoned = s.poisoned := rfl
@[simp] theorem State.respond_rx (s : State) (r : Response) : (s.respond r).rx = s.rx := rfl
@[simp] theorem State.respond_fb (s : State) (r : Response) : (s.respond r).fb = s.fb := rfl
@[simp] theorem State.respond_cfg (s : State) (r : Response) : (s.respond r).cfg = s.cfg := rfl
@[simp] theorem State.respond_tx (s : State) (r : Response) : (s.respond r).tx = s.tx := rfl
@[simp] theorem State.respond_fault (s : State) (r : Response) : (s.respond r).fault = s.fault := rfl
@[simp] theorem State.respond_resp (s : State) (r : Response) : (s.respond r).resp = r := rfl
@[simp] theorem State.respond_rxin (s : State) (r : Response) : (s.respond r).rxin = s.rxin := rfl
@[simp] theorem State.respond_txFails (s : State) (r : Response) : (s.respond r).txFails = s.txFails := rfl
@[simp] theorem State.respond_agenda (s : State) (r : Response) : (s.respond r).agenda = s.agenda := rfl
@[simp] theorem State.respond_draws (s : State) (r : Response) : (s.respond r).draws = s.draws := rfl

/-! ### `State.setRxin` -/

@[simp] theorem State.setRxin_params (s : State) (es : List InEvent) : (s.setRxin es).params = s.params := rfl
@[simp] theorem State.setRxin_regs (s : State) (es : List InEvent) : (s.setRxin es).regs = s.regs := rfl
@[simp] theorem State.setRxin_irq (s : State) (es : List InEvent) : (s.setRxin es).irq = s.irq := rfl
@[simp] theorem State.setRxin_poisoned (s : State) (es : List InEvent) : (s.setRxin es).poisoned = s.poisoned := rfl
@[simp] theorem State.setRxin_rx (s : State) (es : List InEvent) : (s.setRxin es).rx = s.rx := rfl
@[simp] theorem State.setRxin_fb (s : State) (es : List InEvent) : (s.setRxin es).fb = s.fb := rfl
@[simp] theorem State.setRxin_cfg (s : State) (es : List InEvent) : (s.setRxin es).cfg = s.cfg := rfl
@[simp] theorem State.setRxin_tx (s : State) (es : List InEvent) : (s.setRxin es).tx = s.tx := rfl
@[simp] theorem State.setRxin_fault (s : State) (es : List InEvent) : (s.setRxin es).fault = s.fault := rfl
@[simp] theorem State.setRxin_resp (s : State) (es : List InEvent) : (s.setRxin es).resp = s.resp := rfl
@[simp] theorem State.setRxin_rxin (s : State) (es : List InEvent) : (s.setRxin es).rxin = es := rfl
@[simp] theorem State.setRxin_txFails (s : State) (es : List InEvent) : (s.setRxin es).txFails = s.txFails := rfl
@[simp] theorem State.setRxin_agenda (s : State) (es : List InEvent) : (s.setRxin es).agenda = s.agenda := rfl
@[simp] theorem State.setRxin_draws (s : State) (es : List InEvent) : (s.setRxin es).draws = s.draws := rfl

/-! ### `State.setTxFails` -/

@[simp] theorem State.setTxFails_params (s : State) (b : Bool) : (s.setTxFails b).params = s.params := rfl
@[simp] theorem State.setTxFails_regs (s : State) (b : Bool) : (s.setTxFails b).regs = s.regs := rfl
@[simp] theorem State.setTxFails_irq (s : State) (b : Bool) : (s.setTxFails b).irq = s.irq := rfl
@[simp] theorem State.setTxFails_poisoned (s : State) (b : Bool) : (s.setTxFails b).poisoned = s.poisoned := rfl
@[simp] theorem State.setTxFails_rx (s : State) (b : Bool) : (s.setTxFails b).rx = s.rx := rfl
@[simp] theorem State.setTxFails_fb (s : State) (b : Bool) : (s.setTxFails b).fb = s.fb := rfl
@[simp] theorem State.setTxFails_cfg (s : State) (b : Bool) : (s.setTxFails b).cfg = s.cfg := rfl
@[simp] theorem State.setTxFails_tx (s : State) (b : Bool) : (s.setTxFails b).tx = s.tx := rfl
@[simp] theorem State.setTxFails_fault (s : State) (b : Bool) : (s.setTxFails b).fault = s.fault := rfl
@[simp] theorem State.setTxFails_resp (s : State) (b : Bool) : (s.setTxFails b).resp = s.resp := rfl
@[simp] theorem State.setTxFails_rxin (s : State) (b : Bool) : (s.setTxFails b).rxin = s.rxin := rfl
@[simp] theorem State.setTxFails_txFails (s : State) (b : Bool) : (s.setTxFails b).txFails = b := rfl
@[simp] theorem State.setTxFails_agenda (s : State) (b : Bool) : (s.setTxFails b).agenda = s.agenda := rfl
@[simp] theorem State.setTxFails_draws (s : State) (b : Bool) : (s.setTxFails b).draws = s.draws := rfl

/-! ### `State.setAgenda` -/

@[simp] theorem State.setAgenda_params (s : State) (ms : List Move) : (s.setAgenda ms).params = s.params := rfl
@[simp] theorem State.setAgenda_regs (s : State) (ms : List Move) : (s.setAgenda ms).regs = s.regs := rfl
@[simp] theorem State.setAgenda_irq (s : State) (ms : List Move) : (s.setAgenda ms).irq = s.irq := rfl
@[simp] theorem State.setAgenda_poisoned (s : State) (ms : List Move) : (s.setAgenda ms).poisoned = s.poisoned := rfl
@[simp] theorem State.setAgenda_rx (s : State) (ms : List Move) : (s.setAgenda ms).rx = s.rx := rfl
@[simp] theorem State.setAgenda_fb (s : State) (ms : List Move) : (s.setAgenda ms).fb = s.fb := rfl
@[simp] theorem State.setAgenda_cfg (s : State) (ms : List Move) : (s.setAgenda ms).cfg = s.cfg := rfl
@[simp] theorem State.setAgenda_tx (s : State) (ms : List Move) : (s.setAgenda ms).tx = s.tx := rfl
@[simp] theorem State.setAgenda_fault (s : State) (ms : List Move) : (s.setAgenda ms).fault = s.fault := rfl
@[simp] theorem State.setAgenda_resp (s : State) (ms : List Move) : (s.setAgenda ms).resp = s.resp := rfl
@[simp] theorem State.setAgenda_rxin (s : State) (ms : List Move) : (s.setAgenda ms).rxin = s.rxin := rfl
@[simp] theorem State.setAgenda_txFails (s : State) (ms : List Move) : (s.setAgenda ms).txFails = s.txFails := rfl
@[simp] theorem State.setAgenda_agenda (s : State) (ms : List Move) : (s.setAgenda ms).agenda = ms := rfl
@[simp] theorem State.setAgenda_draws (s : State) (ms : List Move) : (s.setAgenda ms).draws = s.draws := rfl

/-! ### `State.countDraw` -/

@[simp] theorem State.countDraw_params (s : State) : s.countDraw.params = s.params := rfl
@[simp] theorem State.countDraw_regs (s : State) : s.countDraw.regs = s.regs := rfl
@[simp] theorem State.countDraw_irq (s : State) : s.countDraw.irq = s.irq := rfl
@[simp] theorem State.countDraw_poisoned (s : State) : s.countDraw.poisoned = s.poisoned := rfl
@[simp] theorem State.countDraw_rx (s : State) : s.countDraw.rx = s.rx := rfl
@[simp] theorem State.countDraw_fb (s : State) : s.countDraw.fb = s.fb := rfl
@[simp] theorem State.countDraw_cfg (s : State) : s.countDraw.cfg = s.cfg := rfl
@[simp] theorem State.countDraw_tx (s : State) : s.countDraw.tx = s.tx := rfl
@[simp] theorem State.countDraw_fault (s : State) : s.countDraw.fault = s.fault := rfl
@[simp] theorem State.countDraw_resp (s : State) : s.countDraw.resp = s.resp := rfl
@[simp] theorem State.countDraw_rxin (s : State) : s.countDraw.rxin = s.rxin := rfl
@[simp] theorem State.countDraw_txFails (s : State) : s.countDraw.txFails = s.txFails := rfl
@[simp] theorem State.countDraw_agenda (s : State) : s.countDraw.agenda = s.agenda := rfl
@[simp] theorem State.countDraw_draws (s : State) : s.countDraw.draws = s.draws + 1 := rfl

/-! ### Byte reads under the updates that do not touch them -/

@[simp] theorem State.fbByte_setReg (s : State) (o : Nat) (v : Byte) (k : Nat) : (s.setReg o v).fbByte k = s.fbByte k := rfl
@[simp] theorem State.reg_setFbByte (s : State) (o : Nat) (v : Byte) (k : Nat) : (s.setFbByte o v).reg k = s.reg k := rfl
@[simp] theorem State.dr_setFbByte (s : State) (o : Nat) (v : Byte) : (s.setFbByte o v).dr = s.dr := rfl
@[simp] theorem State.thre_setFbByte (s : State) (o : Nat) (v : Byte) : (s.setFbByte o v).thre = s.thre := rfl
@[simp] theorem State.fbByte_setIrq (s : State) (b : Bool) (k : Nat) : (s.setIrq b).fbByte k = s.fbByte k := rfl
@[simp] theorem State.reg_setIrq (s : State) (b : Bool) (k : Nat) : (s.setIrq b).reg k = s.reg k := rfl
@[simp] theorem State.dr_setIrq (s : State) (b : Bool) : (s.setIrq b).dr = s.dr := rfl
@[simp] theorem State.thre_setIrq (s : State) (b : Bool) : (s.setIrq b).thre = s.thre := rfl
@[simp] theorem State.fbByte_setPoisoned (s : State) (b : Bool) (k : Nat) : (s.setPoisoned b).fbByte k = s.fbByte k := rfl
@[simp] theorem State.reg_setPoisoned (s : State) (b : Bool) (k : Nat) : (s.setPoisoned b).reg k = s.reg k := rfl
@[simp] theorem State.dr_setPoisoned (s : State) (b : Bool) : (s.setPoisoned b).dr = s.dr := rfl
@[simp] theorem State.thre_setPoisoned (s : State) (b : Bool) : (s.setPoisoned b).thre = s.thre := rfl
@[simp] theorem State.fbByte_setRx (s : State) (r : Rx) (k : Nat) : (s.setRx r).fbByte k = s.fbByte k := rfl
@[simp] theorem State.reg_setRx (s : State) (r : Rx) (k : Nat) : (s.setRx r).reg k = s.reg k := rfl
@[simp] theorem State.dr_setRx (s : State) (r : Rx) : (s.setRx r).dr = s.dr := rfl
@[simp] theorem State.thre_setRx (s : State) (r : Rx) : (s.setRx r).thre = s.thre := rfl
@[simp] theorem State.fbByte_pushTx (s : State) (v : Byte) (k : Nat) : (s.pushTx v).fbByte k = s.fbByte k := rfl
@[simp] theorem State.reg_pushTx (s : State) (v : Byte) (k : Nat) : (s.pushTx v).reg k = s.reg k := rfl
@[simp] theorem State.dr_pushTx (s : State) (v : Byte) : (s.pushTx v).dr = s.dr := rfl
@[simp] theorem State.thre_pushTx (s : State) (v : Byte) : (s.pushTx v).thre = s.thre := rfl
@[simp] theorem State.fbByte_setFault (s : State) (f : Fault) (k : Nat) : (s.setFault f).fbByte k = s.fbByte k := rfl
@[simp] theorem State.reg_setFault (s : State) (f : Fault) (k : Nat) : (s.setFault f).reg k = s.reg k := rfl
@[simp] theorem State.dr_setFault (s : State) (f : Fault) : (s.setFault f).dr = s.dr := rfl
@[simp] theorem State.thre_setFault (s : State) (f : Fault) : (s.setFault f).thre = s.thre := rfl
@[simp] theorem State.fbByte_respond (s : State) (r : Response) (k : Nat) : (s.respond r).fbByte k = s.fbByte k := rfl
@[simp] theorem State.reg_respond (s : State) (r : Response) (k : Nat) : (s.respond r).reg k = s.reg k := rfl
@[simp] theorem State.dr_respond (s : State) (r : Response) : (s.respond r).dr = s.dr := rfl
@[simp] theorem State.thre_respond (s : State) (r : Response) : (s.respond r).thre = s.thre := rfl
@[simp] theorem State.fbByte_setRxin (s : State) (es : List InEvent) (k : Nat) : (s.setRxin es).fbByte k = s.fbByte k := rfl
@[simp] theorem State.reg_setRxin (s : State) (es : List InEvent) (k : Nat) : (s.setRxin es).reg k = s.reg k := rfl
@[simp] theorem State.dr_setRxin (s : State) (es : List InEvent) : (s.setRxin es).dr = s.dr := rfl
@[simp] theorem State.thre_setRxin (s : State) (es : List InEvent) : (s.setRxin es).thre = s.thre := rfl
@[simp] theorem State.fbByte_setTxFails (s : State) (b : Bool) (k : Nat) : (s.setTxFails b).fbByte k = s.fbByte k := rfl
@[simp] theorem State.reg_setTxFails (s : State) (b : Bool) (k : Nat) : (s.setTxFails b).reg k = s.reg k := rfl
@[simp] theorem State.dr_setTxFails (s : State) (b : Bool) : (s.setTxFails b).dr = s.dr := rfl
@[simp] theorem State.thre_setTxFails (s : State) (b : Bool) : (s.setTxFails b).thre = s.thre := rfl
@[simp] theorem State.fbByte_setAgenda (s : State) (ms : List Move) (k : Nat) : (s.setAgenda ms).fbByte k = s.fbByte k := rfl
@[simp] theorem State.reg_setAgenda (s : State) (ms : List Move) (k : Nat) : (s.setAgenda ms).reg k = s.reg k := rfl
@[simp] theorem State.dr_setAgenda (s : State) (ms : List Move) : (s.setAgenda ms).dr = s.dr := rfl
@[simp] theorem State.thre_setAgenda (s : State) (ms : List Move) : (s.setAgenda ms).thre = s.thre := rfl
@[simp] theorem State.fbByte_countDraw (s : State) (k : Nat) : s.countDraw.fbByte k = s.fbByte k := rfl
@[simp] theorem State.reg_countDraw (s : State) (k : Nat) : s.countDraw.reg k = s.reg k := rfl
@[simp] theorem State.dr_countDraw (s : State) : s.countDraw.dr = s.dr := rfl
@[simp] theorem State.thre_countDraw (s : State) : s.countDraw.thre = s.thre := rfl

end Sys2Proof.Machine
end

