-- ==== Sys2Proof/Laws/Ops.lean ====
section
/-! SUPPORT. For each shared operation, what it does: everything it can answer, said once. -/

namespace Sys2Proof.Machine

/-! ### Flags -/

@[simp] theorem flagDr_withDrSet (l : Byte) : flagDr (withDrSet l) = true := by revert l; decide
@[simp] theorem flagDr_withDrClear (l : Byte) : flagDr (withDrClear l) = false := by revert l; decide
@[simp] theorem flagThre_withDrSet (l : Byte) : flagThre (withDrSet l) = flagThre l := by revert l; decide
@[simp] theorem flagThre_withDrClear (l : Byte) : flagThre (withDrClear l) = flagThre l := by revert l; decide

/-! ### Registers -/

theorem State.reg_setReg (s : State) (o : Nat) (v : Byte) (k : Nat) :
    (s.setReg o v).reg k = if k = o ∧ o < s.regs.length then v else s.reg k := by
  simp only [State.reg, State.setReg, List.getD_eq_getElem?_getD, List.getElem?_set]
  by_cases h : o = k
  · subst h
    by_cases hl : o < s.regs.length <;> simp [hl]
  · simp [h, Ne.symm h]

theorem State.reg_setReg_ne (s : State) {o k : Nat} (v : Byte) (h : k ≠ o) : (s.setReg o v).reg k = s.reg k := by
  rw [State.reg_setReg, if_neg fun hk => h hk.1]

theorem State.reg_setReg_self (s : State) {o : Nat} (v : Byte) (h : o < s.regs.length) : (s.setReg o v).reg o = v := by
  rw [State.reg_setReg, if_pos ⟨rfl, h⟩]

/-! ### Faults, the lock, holds -/

theorem whileRunning_of_running {s : State} (body : State → Result) (h : s.fault = none) :
    whileRunning s body = body s := by simp [whileRunning, h]

theorem whileRunning_of_faulted {s : State} {f : Fault} (body : State → Result) (h : s.fault = some f) :
    whileRunning s body = .fault f := by simp [whileRunning, h]

theorem whileRunning_next {s t : State} {body : State → Result} (h : whileRunning s body = .next t) :
    s.fault = none ∧ body s = .next t := by
  cases hf : s.fault with
  | some f => rw [whileRunning_of_faulted body hf] at h; cases h
  | none => exact ⟨rfl, whileRunning_of_running body hf ▸ h⟩

theorem raise_next {f : Fault} {s t : State} (h : raise f s = .next t) : t = (s.setFault f).respond .silent := by
  cases h; rfl

theorem hold_next {s t : State} (h : hold s = .next t) : t = s.respond .held := by
  cases h; rfl

theorem atomicL_of_free {op : LockOp} {s : State} (body : State → Result) (h : s.poisoned = false) :
    atomicL op s body = body s := by simp [atomicL, h]

theorem atomicL_of_poisoned {op : LockOp} {s : State} (body : State → Result) (h : s.poisoned = true) :
    atomicL op s body = raise (.lockPoisoned op) s := by simp [atomicL, h]

theorem atomicL_next {op : LockOp} {s t : State} {body : State → Result} (h : atomicL op s body = .next t) :
    (s.poisoned = true ∧ t = (s.setFault (.lockPoisoned op)).respond .silent) ∨
      (s.poisoned = false ∧ body s = .next t) := by
  cases hp : s.poisoned with
  | true => exact .inl ⟨rfl, raise_next (atomicL_of_poisoned body hp ▸ h)⟩
  | false => exact .inr ⟨rfl, atomicL_of_free body hp ▸ h⟩

theorem loadRaw_next {op : LockOp} {o : Nat} {s t : State} (h : loadRaw op o s = .next t) :
    (s.poisoned = true ∧ t = (s.setFault (.lockPoisoned op)).respond .silent) ∨
      (s.poisoned = false ∧ t = s.respond (.rdata (s.reg o))) :=
  (atomicL_next h).imp_right fun ⟨hp, hb⟩ => ⟨hp, by cases hb; rfl⟩

theorem storeRaw_next {op : LockOp} {o : Nat} {v : Byte} {s t : State} (h : storeRaw op o v s = .next t) :
    (s.poisoned = true ∧ t = (s.setFault (.lockPoisoned op)).respond .silent) ∨
      (s.poisoned = false ∧ t = (s.setReg o v).respond .ack) :=
  (atomicL_next h).imp_right fun ⟨hp, hb⟩ => ⟨hp, by cases hb; rfl⟩

/-! ### The shared parts of the families -/

/-- `wake` moves a waiting producer to `Woken` and changes nothing else. -/
theorem wake_eq (s : State) :
    wake s = s.setRx (match s.rx with | .waiting b => .woken b | .reading => .reading | .got b => .got b | .woken b => .woken b) := by
  cases s; rename_i rx _ _ _ _ _ _ _ _ _; cases rx <;> rfl

theorem wake_cases (s : State) :
    (∃ b, s.rx = .waiting b ∧ wake s = s.setRx (.woken b)) ∨ ((∀ b, s.rx ≠ .waiting b) ∧ wake s = s) := by
  unfold wake
  cases h : s.rx with
  | waiting b => exact .inl ⟨b, rfl, by simp⟩
  | reading => exact .inr ⟨by simp, by simp⟩
  | got b => exact .inr ⟨by simp, by simp⟩
  | woken b => exact .inr ⟨by simp, by simp⟩

theorem failFlush_next {v : Byte} {s t : State} (h : failFlush v s = .next t) :
    ∃ s', (s' = s.pushTx v ∨ s' = s) ∧
      t = ((s'.countDraw.setPoisoned true).setFault (.txError v)).respond .silent := by
  unfold failFlush at h
  cases hk : Config.failedFlushKeepsByte s.draws with
  | true => exact ⟨_, .inl rfl, by simpa [hk] using raise_next h⟩
  | false => exact ⟨_, .inr rfl, by simpa [hk] using raise_next h⟩

@[simp] theorem length_framePixels (s : State) : (framePixels s).length = s.cfg.width * s.cfg.height := by
  simp [framePixels]

theorem getElem_framePixels (s : State) {p : Nat} (h : p < (framePixels s).length) :
    (framePixels s)[p] = pixelAt s p := by simp [framePixels]

theorem plainOffset_iff (p : Params) (o : Nat) : plainOffset p o = true ↔ p.PlainOffset o := by
  simp [plainOffset, Params.PlainOffset, or_assoc]

theorem pixelOffsetOk_iff (p : Params) (o : Nat) : pixelOffsetOk p o = true ↔ o < p.fbLen := by
  simp [pixelOffsetOk]

end Sys2Proof.Machine
end

