-- ==== Sys2Proof/Laws/Exec.lean ====
section
/-! SUPPORT. For each operation, everything a next state of it can be: the inversion lemma that a proof about
`exec` cites instead of unfolding the meaning. -/

namespace Sys2Proof.Machine

theorem execFetchFault_next {addr : Nat} {s t : State} (h : execFetchFault addr s = .next t) :
    s.fault = none ∧ t = (s.setFault (.fetch addr)).respond .silent :=
  (whileRunning_next h).imp_right raise_next

theorem execBusFaultUnmapped_next {k : AccessKind} {addr size : Nat} {s t : State}
    (h : execBusFaultUnmapped k addr size s = .next t) :
    s.fault = none ∧ t = (s.setFault (.unmapped k addr size)).respond .silent :=
  (whileRunning_next h).imp_right raise_next

theorem execBusFaultWidth_next {k : AccessKind} {addr size : Nat} {s t : State}
    (h : execBusFaultWidth k addr size s = .next t) :
    s.fault = none ∧ t = (s.setFault (.badWidth k addr size)).respond .silent :=
  (whileRunning_next h).imp_right raise_next

theorem execBusFaultRange_next {k : AccessKind} {addr size offset : Nat} {s t : State}
    (h : execBusFaultRange k addr size offset s = .next t) :
    s.fault = none ∧ t = (s.setFault (.outOfRange k addr size offset)).respond .silent :=
  (whileRunning_next h).imp_right raise_next

theorem execUartLdRhr_next {s t : State} (h : execUartLdRhr s = .next t) :
    s.fault = none ∧
      ((s.poisoned = true ∧ t = (s.setFault (.lockPoisoned .uartLdRhr)).respond .silent) ∨
        (s.poisoned = false ∧
          t = (((wake s).setReg offLsr (withDrClear (s.reg offLsr))).respond (.rdata (s.reg offRhr))))) := by
  obtain ⟨hf, hb⟩ := whileRunning_next h
  refine ⟨hf, (atomicL_next hb).imp_right fun ⟨hp, hn⟩ => ⟨hp, ?_⟩⟩
  cases hn
  rw [State.reg_setReg_ne _ _ (by decide : offRhr ≠ offLsr), wake_eq]
  rfl

theorem execUartLdLcr_next {s t : State} (h : execUartLdLcr s = .next t) :
    s.fault = none ∧
      ((s.poisoned = true ∧ t = (s.setFault (.lockPoisoned .uartLdLcr)).respond .silent) ∨
        (s.poisoned = false ∧ t = s.respond (.rdata (s.reg offLcr)))) :=
  (whileRunning_next h).imp_right loadRaw_next

theorem execUartLdLsr_next {s t : State} (h : execUartLdLsr s = .next t) :
    s.fault = none ∧
      ((s.poisoned = true ∧ t = (s.setFault (.lockPoisoned .uartLdLsr)).respond .silent) ∨
        (s.poisoned = false ∧ t = s.respond (.rdata (s.reg offLsr)))) :=
  (whileRunning_next h).imp_right loadRaw_next

theorem execUartLdReg_next {o : Nat} {s t : State} (h : execUartLdReg o s = .next t) :
    s.fault = none ∧ s.params.PlainOffset o ∧
      ((s.poisoned = true ∧ t = (s.setFault (.lockPoisoned .uartLdReg)).respond .silent) ∨
        (s.poisoned = false ∧ t = s.respond (.rdata (s.reg o)))) := by
  obtain ⟨hf, hb⟩ := whileRunning_next h
  by_cases ho : plainOffset s.params o = true
  · rw [if_pos ho] at hb; exact ⟨hf, (plainOffset_iff _ _).1 ho, loadRaw_next hb⟩
  · rw [if_neg ho] at hb; cases hb

theorem execUartStThr_next {v : Byte} {s t : State} (h : execUartStThr v s = .next t) :
    s.fault = none ∧
      ((s.poisoned = true ∧ t = (s.setFault (.lockPoisoned .uartStThr)).respond .silent) ∨
        (s.poisoned = false ∧ s.txFails = false ∧ t = (s.pushTx v).respond .ack) ∨
        (s.poisoned = false ∧ s.txFails = true ∧ ∃ s', (s' = s.pushTx v ∨ s' = s) ∧
          t = ((s'.countDraw.setPoisoned true).setFault (.txError v)).respond .silent)) := by
  obtain ⟨hf, hb⟩ := whileRunning_next h
  refine ⟨hf, (atomicL_next hb).imp_right fun ⟨hp, hn⟩ => ?_⟩
  cases ht : s.txFails with
  | true => exact .inr ⟨hp, rfl, failFlush_next (by simpa [ht] using hn)⟩
  | false => refine .inl ⟨hp, rfl, ?_⟩; simp only [ht] at hn; cases hn; rfl

theorem execUartStLcr_next {v : Byte} {s t : State} (h : execUartStLcr v s = .next t) :
    s.fault = none ∧
      ((s.poisoned = true ∧ t = (s.setFault (.lockPoisoned .uartStLcr)).respond .silent) ∨
        (s.poisoned = false ∧ t = (s.setReg offLcr v).respond .ack)) :=
  (whileRunning_next h).imp_right storeRaw_next

theorem execUartStLsr_next {v : Byte} {s t : State} (h : execUartStLsr v s = .next t) :
    s.fault = none ∧
      ((s.poisoned = true ∧ t = (s.setFault (.lockPoisoned .uartStLsr)).respond .silent) ∨
        (s.poisoned = false ∧ t = (s.setReg offLsr v).respond .ack)) :=
  (whileRunning_next h).imp_right storeRaw_next

theorem execUartStReg_next {o : Nat} {v : Byte} {s t : State} (h : execUartStReg o v s = .next t) :
    s.fault = none ∧ s.params.PlainOffset o ∧
      ((s.poisoned = true ∧ t = (s.setFault (.lockPoisoned .uartStReg)).respond .silent) ∨
        (s.poisoned = false ∧ t = (s.setReg o v).respond .ack)) := by
  obtain ⟨hf, hb⟩ := whileRunning_next h
  by_cases ho : plainOffset s.params o = true
  · rw [if_pos ho] at hb; exact ⟨hf, (plainOffset_iff _ _).1 ho, storeRaw_next hb⟩
  · rw [if_neg ho] at hb; cases hb

theorem execFbLd_next {o : Nat} {s t : State} (h : execFbLd o s = .next t) :
    s.fault = none ∧ o < s.params.fbLen ∧ t = s.respond (.rdata (s.fbByte o)) := by
  obtain ⟨hf, hb⟩ := whileRunning_next h
  by_cases ho : pixelOffsetOk s.params o = true
  · rw [if_pos ho] at hb; cases hb; exact ⟨hf, (pixelOffsetOk_iff _ _).1 ho, rfl⟩
  · rw [if_neg ho] at hb; cases hb

theorem execFbSt_next {o : Nat} {v : Byte} {s t : State} (h : execFbSt o v s = .next t) :
    s.fault = none ∧ o < s.params.fbLen ∧ t = (s.setFbByte o v).respond .ack := by
  obtain ⟨hf, hb⟩ := whileRunning_next h
  by_cases ho : pixelOffsetOk s.params o = true
  · rw [if_pos ho] at hb; cases hb; exact ⟨hf, (pixelOffsetOk_iff _ _).1 ho, rfl⟩
  · rw [if_neg ho] at hb; cases hb

theorem execIrqPoll_next {s t : State} (h : execIrqPoll s = .next t) :
    s.fault = none ∧ t = (s.setIrq false).respond (.polled s.irq) :=
  (whileRunning_next h).imp_right fun hb => by cases hb; rfl

theorem execRxReadByte_next {b : Byte} {s t : State} (h : execRxReadByte b s = .next t) :
    s.fault = none ∧
      ((s.rx = .reading ∧ s.rxin.head? = some (.inByte b) ∧
          t = ((consumeEvent s).setRx (.got b)).respond .silent) ∨
        (¬(s.rx = .reading ∧ s.rxin.head? = some (.inByte b)) ∧ t = s.respond .held)) := by
  obtain ⟨hf, hb⟩ := whileRunning_next h
  by_cases he : s.rx = .reading ∧ s.rxin.head? = some (.inByte b)
  · rw [if_pos he] at hb; cases hb; exact ⟨hf, .inl ⟨he.1, he.2, rfl⟩⟩
  · rw [if_neg he] at hb; exact ⟨hf, .inr ⟨he, hold_next hb⟩⟩

theorem execRxReadErr_next {s t : State} (h : execRxReadErr s = .next t) :
    s.fault = none ∧
      ((s.rx = .reading ∧ s.rxin.head? = some .inError ∧ t = (consumeEvent s).respond .errorReport) ∨
        (¬(s.rx = .reading ∧ s.rxin.head? = some .inError) ∧ t = s.respond .held)) := by
  obtain ⟨hf, hb⟩ := whileRunning_next h
  by_cases he : s.rx = .reading ∧ s.rxin.head? = some .inError
  · rw [if_pos he] at hb; cases hb; exact ⟨hf, .inl ⟨he.1, he.2, rfl⟩⟩
  · rw [if_neg he] at hb; exact ⟨hf, .inr ⟨he, hold_next hb⟩⟩

theorem execRxReadEnd_next {s t : State} (h : execRxReadEnd s = .next t) :
    s.fault = none ∧
      ((s.rx = .reading ∧ s.rxin.head? = some .inEnd ∧ ∃ r, (r = Rx.reading ∨ ∃ d, r = .got d) ∧
          t = ((consumeEvent s).setRx r).countDraw.respond .silent) ∨
        (¬(s.rx = .reading ∧ s.rxin.head? = some .inEnd) ∧ t = s.respond .held)) := by
  obtain ⟨hf, hb⟩ := whileRunning_next h
  by_cases he : s.rx = .reading ∧ s.rxin.head? = some .inEnd
  · rw [if_pos he] at hb; cases hb
    refine ⟨hf, .inl ⟨he.1, he.2, _, ?_, rfl⟩⟩
    cases Config.endOfInputYieldsByte s.draws
    · exact .inl rfl
    · exact .inr ⟨_, rfl⟩
  · rw [if_neg he] at hb; exact ⟨hf, .inr ⟨he, hold_next hb⟩⟩

theorem execRxCheck_next {b : Byte} {s t : State} (h : execRxCheck b s = .next t) :
    s.fault = none ∧
      (((s.rx = .got b ∨ s.rx = .woken b) ∧
          ((s.poisoned = true ∧ t = (s.setFault (.lockPoisoned .rxCheck)).respond .silent) ∨
            (s.poisoned = false ∧ s.dr = true ∧ t = (s.setRx (.waiting b)).respond .silent) ∨
            (s.poisoned = false ∧ s.dr = false ∧ t = (deliver b s).respond .silent))) ∨
        (¬(s.rx = .got b ∨ s.rx = .woken b) ∧ t = s.respond .held)) := by
  obtain ⟨hf, hb⟩ := whileRunning_next h
  by_cases he : s.rx = .got b ∨ s.rx = .woken b
  · rw [if_pos he] at hb
    refine ⟨hf, .inl ⟨he, (atomicL_next hb).imp_right fun ⟨hp, hn⟩ => ?_⟩⟩
    cases hd : s.dr with
    | true => rw [if_pos hd] at hn; cases hn; exact .inl ⟨hp, rfl, rfl⟩
    | false => rw [if_neg (by simp [hd])] at hn; cases hn; exact .inr ⟨hp, rfl, rfl⟩
  · rw [if_neg he] at hb; exact ⟨hf, .inr ⟨he, hold_next hb⟩⟩

theorem execRxSpurious_next {b : Byte} {s t : State} (h : execRxSpurious b s = .next t) :
    s.fault = none ∧
      ((s.params.spuriousWake = true ∧ s.rx = .waiting b ∧ t = (s.setRx (.woken b)).respond .silent) ∨
        (¬(s.params.spuriousWake = true ∧ s.rx = .waiting b) ∧ t = s.respond .held)) := by
  obtain ⟨hf, hb⟩ := whileRunning_next h
  by_cases he : s.params.spuriousWake = true ∧ s.rx = .waiting b
  · rw [if_pos he] at hb; cases hb; exact ⟨hf, .inl ⟨he.1, he.2, rfl⟩⟩
  · rw [if_neg he] at hb; exact ⟨hf, .inr ⟨he, hold_next hb⟩⟩

theorem execFbRefresh_next {s t : State} (h : execFbRefresh s = .next t) :
    s.fault = none ∧ t = s.respond (.frame (framePixels s) s.cfg.width s.cfg.height) :=
  (whileRunning_next h).imp_right fun hb => by cases hb; rfl

/-- A faulted block gives no next state, whatever the operation (R114). -/
theorem exec_next_running {i : Instr} {s t : State} (h : exec i s = .next t) : s.fault = none := by
  cases i with
  | fetchFault _ => exact (execFetchFault_next h).1
  | busFaultUnmapped _ _ _ => exact (execBusFaultUnmapped_next h).1
  | busFaultWidth _ _ _ => exact (execBusFaultWidth_next h).1
  | busFaultRange _ _ _ _ => exact (execBusFaultRange_next h).1
  | uartLdRhr => exact (execUartLdRhr_next h).1
  | uartLdLcr => exact (execUartLdLcr_next h).1
  | uartLdLsr => exact (execUartLdLsr_next h).1
  | uartLdReg _ => exact (execUartLdReg_next h).1
  | uartStThr _ => exact (execUartStThr_next h).1
  | uartStLcr _ => exact (execUartStLcr_next h).1
  | uartStLsr _ => exact (execUartStLsr_next h).1
  | uartStReg _ _ => exact (execUartStReg_next h).1
  | fbLd _ => exact (execFbLd_next h).1
  | fbSt _ _ => exact (execFbSt_next h).1
  | irqPoll => exact (execIrqPoll_next h).1
  | rxReadByte _ => exact (execRxReadByte_next h).1
  | rxReadErr => exact (execRxReadErr_next h).1
  | rxReadEnd => exact (execRxReadEnd_next h).1
  | rxCheck _ => exact (execRxCheck_next h).1
  | rxSpurious _ => exact (execRxSpurious_next h).1
  | fbRefresh => exact (execFbRefresh_next h).1

end Sys2Proof.Machine
end

