-- ==== Sys2Proof/Laws/Agents.lean ====
section
/-! SUPPORT. Everything one agent's step can be, the states an update keeps well formed, and the lock of a well-formed
running state. -/

namespace Sys2Proof.Machine

/-- Everything a next state of one agent's step can be: the operation the move selects, a hold, or a host move. -/
theorem act_next {m : Move} {s t : State} (h : act m s = .next t) :
    s.fault = none ∧
      ((∃ i, selects m s = some i ∧ exec i s = .next t) ∨
        (selects m s = none ∧
          ((m = .bg ∧ t = s.respond .held) ∨
            (∃ e, m = .offer e ∧ t = (s.setRxin (s.rxin ++ [e])).respond .silent) ∨
            ∃ f, m = .output f ∧ t = (s.setTxFails f).respond .silent))) := by
  obtain ⟨hf, hb⟩ := whileRunning_next h
  refine ⟨hf, ?_⟩
  cases m with
  | fg r =>
    simp only [runKey] at hb
    simp only [selects, moveKey]
    split at hb
    · next i hi => exact .inl ⟨i, by simp [hi, Except.toOption], hb⟩
    · next r' hi =>
      exfalso
      cases r with
      | bus k a sz v => simp only [decode] at hi; split at hi <;> cases hi; cases hb
      | poll => cases hi
      | refresh => cases hi
      | fetch a => simp only [decode, decodeFetch] at hi; split at hi <;> (try split at hi) <;> cases hi <;> cases hb
  | bg =>
    simp only [runKey] at hb
    simp only [selects, moveKey]
    split at hb
    · next i hi => exact .inl ⟨i, by simp [hi, Except.toOption], hb⟩
    · next r' hi =>
      refine .inr ⟨by simp [hi, Except.toOption], .inl ⟨trivial, ?_⟩⟩
      simp only [producerKey, decode] at hi
      cases hr : s.rx <;> simp only [hr, decodeRx] at hi
      · split at hi <;> simp_all
        subst hi; exact hold_next hb
      · cases hi
      · split at hi <;> cases hi
        exact hold_next hb
      · cases hi
  | offer e => cases hb; exact .inr ⟨rfl, .inr (.inl ⟨e, rfl, rfl⟩)⟩
  | output f => cases hb; exact .inr ⟨rfl, .inr (.inr ⟨f, rfl, rfl⟩)⟩

/-- A state that keeps the parameters, the length of `regs`, the configuration and the Pixel Store is well formed, if
its lock is. -/
theorem State.Wf.of_same {s t : State} (h : s.Wf) (hp : t.params = s.params) (hr : t.regs.length = s.regs.length)
    (hc : t.cfg = s.cfg) (hf : t.fb = s.fb) (hl : t.poisoned = true → raisedInLock t.fault = true) : t.Wf where
  legal := hp ▸ h.legal
  regsLength := by rw [hr, hp]; exact h.regsLength
  cfgAsConfigured := by rw [hc, hp]; exact h.cfgAsConfigured
  fbCanonical := by rw [hf, hp]; exact h.fbCanonical
  fbBelow := by rw [hf, hp]; exact h.fbBelow
  poisonedInLock := hl

/-- The lock of a well-formed state that is not faulted is free. -/
theorem State.Wf.lock_free {s : State} (h : s.Wf) (hf : s.fault = none) : s.poisoned = false := by
  cases hp : s.poisoned with
  | false => rfl
  | true => have := h.poisonedInLock hp; rw [hf] at this; cases this

/-- Every UART offset but the named ones is a plain offset (R75). -/
theorem plainOffset_of_lt {p : Params} {o : Nat} (ho : o < p.uartSize) (h0 : o ≠ 0) (h3 : o ≠ 3) (h5 : o ≠ 5) :
    p.PlainOffset o := by
  simp only [Params.PlainOffset]; omega

end Sys2Proof.Machine
end

