-- ==== Sys2Proof/Laws/PerInstr.lean ====
section
/-! SUPPORT. A law per operation about its syntax: the key that encodes a well-formed operation is one the block
can be presented with (spec/30_encoding.md R73). -/

namespace Sys2Proof.Laws

/-- Under a legal configuration, `encode` gives a well-formed key for the operation `i` if `i` is well formed. -/
def EncodeWf.Statement (i : Instr) : Prop :=
  ∀ p : Params, p.Legal → i.wellFormed p = true → (encode p i).wellFormed p = true

theorem EncodeWf.fetchFault (addr : Nat) : EncodeWf.Statement (.fetchFault addr) :=
  fun _ _ hw => hw

theorem EncodeWf.busFaultUnmapped (kind : AccessKind) (addr size : Nat) : EncodeWf.Statement (.busFaultUnmapped kind addr size) :=
  fun _ _ hw => decide_eq_true (of_decide_eq_true hw).1

theorem EncodeWf.busFaultWidth (kind : AccessKind) (addr size : Nat) : EncodeWf.Statement (.busFaultWidth kind addr size) :=
  fun _ _ hw => decide_eq_true (of_decide_eq_true hw).1

theorem EncodeWf.busFaultRange (kind : AccessKind) (addr size offset : Nat) : EncodeWf.Statement (.busFaultRange kind addr size offset) :=
  fun _ hp hw => decide_eq_true (hp.addr_lt (.inr (of_decide_eq_true hw).1))

theorem EncodeWf.uartLdRhr : EncodeWf.Statement .uartLdRhr :=
  fun p hp _ => by
  have h6 := hp.1
  exact decide_eq_true (hp.addr_lt (.inl (hp.inUart (o := 0) (by omega))))

theorem EncodeWf.uartLdLcr : EncodeWf.Statement .uartLdLcr :=
  fun p hp _ => by
  have h6 := hp.1
  exact decide_eq_true (hp.addr_lt (.inl (hp.inUart (o := 3) (by omega))))

theorem EncodeWf.uartLdLsr : EncodeWf.Statement .uartLdLsr :=
  fun p hp _ => by
  have h6 := hp.1
  exact decide_eq_true (hp.addr_lt (.inl (hp.inUart (o := 5) (by omega))))

theorem EncodeWf.uartLdReg (offset : Nat) : EncodeWf.Statement (.uartLdReg offset) :=
  fun _ hp hw =>
  decide_eq_true (hp.addr_lt (.inl (hp.inUart (hp.plainOffset_lt (of_decide_eq_true hw)))))

theorem EncodeWf.uartStThr (v : Byte) : EncodeWf.Statement (.uartStThr v) :=
  fun p hp _ => by
  have h6 := hp.1
  exact decide_eq_true (hp.addr_lt (.inl (hp.inUart (o := 0) (by omega))))

theorem EncodeWf.uartStLcr (v : Byte) : EncodeWf.Statement (.uartStLcr v) :=
  fun p hp _ => by
  have h6 := hp.1
  exact decide_eq_true (hp.addr_lt (.inl (hp.inUart (o := 3) (by omega))))

theorem EncodeWf.uartStLsr (v : Byte) : EncodeWf.Statement (.uartStLsr v) :=
  fun p hp _ => by
  have h6 := hp.1
  exact decide_eq_true (hp.addr_lt (.inl (hp.inUart (o := 5) (by omega))))

theorem EncodeWf.uartStReg (offset : Nat) (v : Byte) : EncodeWf.Statement (.uartStReg offset v) :=
  fun _ hp hw =>
  decide_eq_true (hp.addr_lt (.inl (hp.inUart (hp.plainOffset_lt (of_decide_eq_true hw)))))

theorem EncodeWf.fbLd (offset : Nat) : EncodeWf.Statement (.fbLd offset) :=
  fun _ hp hw => decide_eq_true (hp.addr_lt (.inr (hp.inFb (of_decide_eq_true hw))))

theorem EncodeWf.fbSt (offset : Nat) (v : Byte) : EncodeWf.Statement (.fbSt offset v) :=
  fun _ hp hw => decide_eq_true (hp.addr_lt (.inr (hp.inFb (of_decide_eq_true hw))))

theorem EncodeWf.irqPoll : EncodeWf.Statement .irqPoll :=
  fun _ _ _ => rfl

theorem EncodeWf.rxReadByte (b : Byte) : EncodeWf.Statement (.rxReadByte b) :=
  fun _ _ _ => rfl

theorem EncodeWf.rxReadErr : EncodeWf.Statement .rxReadErr :=
  fun _ _ _ => rfl

theorem EncodeWf.rxReadEnd : EncodeWf.Statement .rxReadEnd :=
  fun _ _ _ => rfl

theorem EncodeWf.rxCheck (b : Byte) : EncodeWf.Statement (.rxCheck b) :=
  fun _ _ _ => rfl

theorem EncodeWf.rxSpurious (b : Byte) : EncodeWf.Statement (.rxSpurious b) :=
  fun _ _ hw => hw

theorem EncodeWf.fbRefresh : EncodeWf.Statement .fbRefresh :=
  fun _ _ _ => rfl

end Sys2Proof.Laws
end

