-- ==== Sys2Proof/Tests/Slice0.lean ====
section
/-! SUPPORT. Tests: the well-formedness smoke test, the operation map read key by key, one-step vectors of
spec/95_test_vectors.md, and a witness for the hypotheses of each statement. -/

namespace Sys2Proof.Tests

open Sys2Proof Sys2Proof.Machine

/-- Instance T of spec/95_test_vectors.md, with `U = 0x100` and `F = 0x200`; `0x300` is in neither window. -/
def T : Params where
  addrW := 16
  uartBase := 0x100
  uartSize := 8
  fbBase := 0x200
  fbWidth := 2
  fbHeight := 2
  mapGran := 32
  fbWindow := 32
  spuriousWake := false
  resetDraw := false

/-- Instance T with `SPURIOUS_WAKE = true`. -/
def Tsp : Params := { T with spuriousWake := true }

/-- Instance T after reset. -/
def s0 : State := State.construct T

/-- `s0` with the RHR, the LSR and the producer's state given. -/
def at0 (rhr lsr : Byte) (r : Rx) : State := { s0 with regs := (s0.regs.set 0 rhr).set 5 lsr, rx := r }

/-- The next state of a result, where there is one. -/
def after (r : Result) : Option State :=
  match r with
  | .next t => some t
  | .fault _ => none
  | .refused _ => none

/-- One field of the next state. -/
def field {α : Type} (f : State → α) (r : Result) : Option α := (after r).map f

/-- The RHR, the LSR, `irq` and the producer's state. -/
def uartView (s : State) : Byte × Byte × Bool × Rx := (s.reg 0, s.reg 5, s.irq, s.rx)

/-! ### Legal configurations and well-formed terms: each check refuses an ill-formed one -/

theorem test_legal_T : T.Legal ∧ Tsp.Legal ∧ Config.smallest.Legal := by decide
theorem test_illegal_uart_size : ¬Params.Legal { T with uartSize := 5 } := by decide
theorem test_illegal_width : ¬Params.Legal { T with fbWidth := 0 } := by decide
theorem test_illegal_height : ¬Params.Legal { T with fbHeight := 0 } := by decide
theorem test_illegal_granularity : ¬Params.Legal { T with mapGran := 0 } := by decide
theorem test_illegal_window_short : ¬Params.Legal { T with fbWindow := 0 } := by decide
theorem test_illegal_window_multiple : ¬Params.Legal { T with fbWindow := 33 } := by decide
theorem test_illegal_uart_beyond_space : ¬Params.Legal { T with uartBase := 0xFFF9 } := by decide
theorem test_illegal_fb_beyond_space : ¬Params.Legal { T with fbBase := 0xFFE1 } := by decide
theorem test_illegal_overlap : ¬Params.Legal { T with fbBase := 0x107 } := by decide

theorem test_wf_accepts :
    (Instr.fetchFault 0x100).wellFormed T ∧ (Instr.busFaultUnmapped .load 0x108 1).wellFormed T ∧
    (Instr.busFaultWidth .store 0x21F 4).wellFormed T ∧ (Instr.busFaultRange .load 0x210 1 16).wellFormed T ∧
    (Instr.uartLdReg 7).wellFormed T ∧ (Instr.uartStReg 6 0xFF).wellFormed T ∧ (Instr.fbLd 15).wellFormed T ∧
    (Instr.fbSt 0 0).wellFormed T ∧ (Instr.rxSpurious 1).wellFormed Tsp := by decide

theorem test_wf_fetch_refused :
    (Instr.fetchFault 0x10000).wellFormed T = false ∧ (Instr.fetchFault 0x300).wellFormed T = false := by decide
theorem test_wf_unmapped_refused :
    (Instr.busFaultUnmapped .load 0x10000 1).wellFormed T = false ∧
    (Instr.busFaultUnmapped .load 0x107 1).wellFormed T = false ∧
    (Instr.busFaultUnmapped .load 0x21F 1).wellFormed T = false := by decide
theorem test_wf_width_refused :
    (Instr.busFaultWidth .load 0x10000 2).wellFormed T = false ∧
    (Instr.busFaultWidth .load 0x300 2).wellFormed T = false ∧
    (Instr.busFaultWidth .load 0x100 1).wellFormed T = false := by decide
theorem test_wf_range_refused :
    (Instr.busFaultRange .load 0x220 1 32).wellFormed T = false ∧
    (Instr.busFaultRange .load 0x210 2 16).wellFormed T = false ∧
    (Instr.busFaultRange .load 0x210 1 17).wellFormed T = false ∧
    (Instr.busFaultRange .load 0x20F 1 15).wellFormed T = false := by decide
theorem test_wf_offset_refused :
    (∀ o ∈ [0, 3, 5, 8], (Instr.uartLdReg o).wellFormed T = false ∧ (Instr.uartStReg o 1).wellFormed T = false) ∧
    (Instr.fbLd 16).wellFormed T = false ∧ (Instr.fbSt 16 1).wellFormed T = false ∧
    (Instr.rxSpurious 1).wellFormed T = false := by decide
theorem test_wf_key_refused :
    (Key.fg (.bus .load 0x10000 1 0)).wellFormed T = false ∧ (Key.fg (.fetch 0x10000)).wellFormed T = false ∧
    (Key.fg (.fetch 0x300)).wellFormed T = false ∧ (Key.rx .reading none false).wellFormed T = false ∧
    (Key.rx (.got 1) (some .inEnd) false).wellFormed T = false ∧
    (Key.rx (.woken 1) (some .inError) false).wellFormed T = false ∧
    (Key.rx (.waiting 1) (some .inEnd) true).wellFormed T = false ∧
    (Key.rx (.waiting 1) none false).wellFormed T = false := by decide

/-! ### The operation map: every row of spec/30_encoding.md R75, from its key columns -/

theorem test_decode_row1_fetch_fault :
    decode T (.fg (.fetch 0x100)) = .ok (.fetchFault 0x100) ∧
    decode T (.fg (.fetch 0x21F)) = .ok (.fetchFault 0x21F) := ⟨rfl, rfl⟩
theorem test_decode_row2_unmapped :
    decode T (.fg (.bus .load 0x300 4 0)) = .ok (.busFaultUnmapped .load 0x300 4) := rfl
theorem test_decode_row3_width :
    decode T (.fg (.bus .store 0x100 4 0x42434445)) = .ok (.busFaultWidth .store 0x100 4) ∧
    decode T (.fg (.bus .load 0x210 0 0)) = .ok (.busFaultWidth .load 0x210 0) := ⟨rfl, rfl⟩
theorem test_decode_row4_range :
    decode T (.fg (.bus .load 0x21F 1 0)) = .ok (.busFaultRange .load 0x21F 1 31) := rfl
theorem test_decode_row5_ld_rhr : decode T (.fg (.bus .load 0x100 1 0)) = .ok .uartLdRhr := rfl
theorem test_decode_row6_ld_lcr : decode T (.fg (.bus .load 0x103 1 0)) = .ok .uartLdLcr := rfl
theorem test_decode_row7_ld_lsr : decode T (.fg (.bus .load 0x105 1 0)) = .ok .uartLdLsr := rfl
theorem test_decode_row8_ld_reg :
    decode T (.fg (.bus .load 0x101 1 0)) = .ok (.uartLdReg 1) ∧
    decode T (.fg (.bus .load 0x102 1 0)) = .ok (.uartLdReg 2) ∧
    decode T (.fg (.bus .load 0x104 1 0)) = .ok (.uartLdReg 4) ∧
    decode T (.fg (.bus .load 0x107 1 0)) = .ok (.uartLdReg 7) := ⟨rfl, rfl, rfl, rfl⟩
theorem test_decode_row9_st_thr : decode T (.fg (.bus .store 0x100 1 0x41)) = .ok (.uartStThr 0x41) := rfl
theorem test_decode_row10_st_lcr : decode T (.fg (.bus .store 0x103 1 0x83)) = .ok (.uartStLcr 0x83) := rfl
theorem test_decode_row11_st_lsr : decode T (.fg (.bus .store 0x105 1 0x120)) = .ok (.uartStLsr 0x20) := rfl
theorem test_decode_row12_st_reg : decode T (.fg (.bus .store 0x106 1 0xFF)) = .ok (.uartStReg 6 0xFF) := rfl
theorem test_decode_row13_fb_ld : decode T (.fg (.bus .load 0x20F 1 0)) = .ok (.fbLd 15) := rfl
theorem test_decode_row14_fb_st : decode T (.fg (.bus .store 0x200 1 0xAB)) = .ok (.fbSt 0 0xAB) := rfl
theorem test_decode_row15_poll : decode T (.fg .poll) = .ok .irqPoll := rfl
theorem test_decode_row16_read_byte :
    decode T (.rx .reading (some (.inByte 0x5A)) false) = .ok (.rxReadByte 0x5A) := rfl
theorem test_decode_row17_read_err : decode T (.rx .reading (some .inError) false) = .ok .rxReadErr := rfl
theorem test_decode_row18_read_end : decode T (.rx .reading (some .inEnd) false) = .ok .rxReadEnd := rfl
theorem test_decode_row19_check :
    decode T (.rx (.got 0x41) none false) = .ok (.rxCheck 0x41) ∧
    decode T (.rx (.woken 0x42) none true) = .ok (.rxCheck 0x42) := ⟨rfl, rfl⟩
theorem test_decode_row20_spurious :
    decode Tsp (.rx (.waiting 0x42) none true) = .ok (.rxSpurious 0x42) ∧
    decode T (.rx (.waiting 0x42) none false) = .error .holdWaiting := ⟨rfl, rfl⟩
theorem test_decode_row21_refresh : decode T (.fg .refresh) = .ok .fbRefresh := rfl

/-- Words in the model's own numbering (log entry 12): a load of the LSR, a store of 0x41 to the THR, the poll, a
producer in `Got(0x41)`, and the refresh. -/
theorem test_words :
    wordKey T 64 (5 * 2 ^ 32 + 1 * 2 ^ 8 + 1 * 2 ^ 4) = .ok (.fg (.bus .load 0x105 1 0)) ∧
    wordKey T 64 (0x41 * 2 ^ 16 + 1 * 2 ^ 8 + 1 * 2 ^ 4 + 1 * 2 ^ 3) = .ok (.fg (.bus .store 0x100 1 0x41)) ∧
    wordKey T 8 1 = .ok (.fg .poll) ∧
    wordKey T 16 (0x41 * 2 ^ 8 + 1 * 2 ^ 3 + 2) = .ok (.rx (.got 0x41) none false) ∧
    wordKey T 8 3 = .ok (.fg .refresh) := ⟨rfl, rfl, rfl, rfl, rfl⟩

theorem test_decode_table_words :
    decodeTableWord 8 1 = some .irqPoll ∧ decodeTableWord 8 3 = some .fbRefresh ∧
    decodeTableWord 16 (0x41 * 2 ^ 8 + 1 * 2 ^ 5 + 2) = some (.rxReadByte 0x41) := ⟨rfl, rfl, rfl⟩

/-! ### One step each, from the vectors of spec/95_test_vectors.md -/

/-- V4. -/
theorem test_ld_rhr_wakes :
    field (fun t => (t.resp, uartView t)) (act (ld 0x100) (at0 0x41 0x21 (.waiting 0x42))) =
      some (.rdata 0x41, 0x41, 0x20, false, .woken 0x42) := by decide
/-- V6: only bit 0 of the LSR is cleared. -/
theorem test_ld_rhr_clears_only_dr :
    field uartView (act (ld 0x100) (at0 0 0xFF .reading)) = some (0, 0xFE, false, .reading) := by decide
/-- V8. -/
theorem test_ld_lcr :
    field State.resp (act (ld 0x103) { s0 with regs := s0.regs.set 3 0x83 }) = some (.rdata 0x83) := by decide
/-- V1 and V9. -/
theorem test_ld_lsr :
    field State.resp (act (ld 0x105) s0) = some (.rdata 0x20) ∧
    field (fun t => (t.resp, t.reg 5)) (act (ld 0x105) (at0 0 0x21 .reading)) = some (.rdata 0x21, 0x21) := by decide
/-- V10: the last UART offset. -/
theorem test_ld_reg :
    field State.resp (act (ld 0x107) { s0 with regs := s0.regs.set 7 0x5A }) = some (.rdata 0x5A) := by decide
/-- V13: a value wider than a byte. -/
theorem test_st_thr_low_byte :
    field (fun t => (t.tx, t.reg 0)) (act (.fg (.bus .store 0x100 1 0x1FF)) s0) = some ([0xFF], 0) := by decide
/-- V14: the byte is emitted although THRE is 0. -/
theorem test_st_thr_ignores_thre :
    field State.tx (act (st 0x100 0x41) (at0 0 0 .reading)) = some [0x41] := by decide
/-- V15, its first line. -/
theorem test_st_lcr : field (fun t => (t.reg 3, t.tx)) (act (st 0x103 0x83) s0) = some (0x83, []) := by decide
/-- V19: an LSR store wakes nobody. -/
theorem test_st_lsr_no_wake :
    field uartView (act (st 0x105 0x20) (at0 0 0x21 (.waiting 0x42))) = some (0, 0x20, false, .waiting 0x42) := by decide
/-- V20. -/
theorem test_st_reg :
    field (fun t => (t.reg 1, uartView t)) (act (st 0x101 0xFF) s0) = some (0xFF, 0, 0x20, false, .reading) := by decide
/-- V22. -/
theorem test_read_byte :
    field (fun t => (t.rx, t.rxin)) (act .bg { s0 with rxin := [.inByte 0x00, .inError] }) =
      some (.got 0x00, [.inError]) := by decide
/-- V23. -/
theorem test_read_err :
    field (fun t => (t.rx, t.rxin, t.tx)) (act .bg { s0 with rxin := [.inError] }) = some (.reading, [], []) := by decide
/-- V24: the event is consumed, and no register byte, no flag and no `TX` byte changes. -/
theorem test_read_end :
    field (fun t => (t.rxin, t.regs, t.irq, t.tx)) (act .bg { s0 with rxin := [.inEnd] }) =
      some ([], [0, 0, 0, 0, 0, 0x20, 0, 0], false, []) := by decide
/-- V29: the other LSR bits are kept. -/
theorem test_check_delivers :
    field uartView (act .bg (at0 0 0xDE (.got 0x41))) = some (0x41, 0xDF, true, .reading) := by decide
/-- V28. -/
theorem test_check_waits :
    field uartView (act .bg (at0 0 0x21 (.woken 0x42))) = some (0, 0x21, false, .waiting 0x42) := by decide
/-- V30 and V32. -/
theorem test_spurious :
    field State.rx (act .bg { s0 with params := Tsp, rx := .waiting 0x42 }) = some (.woken 0x42) ∧
    field (fun t => (t.rx, t.resp)) (act .bg (at0 0 0 (.waiting 0x42))) = some (.waiting 0x42, .held) := by decide
/-- V33 and V34. -/
theorem test_poll :
    field (fun t => (t.resp, t.irq)) (act (.fg .poll) { s0 with irq := true }) = some (.polled true, false) ∧
    field (fun t => (t.resp, t.irq)) (act (.fg .poll) s0) = some (.polled false, false) := by decide
/-- V44, its second line. -/
theorem test_fb_ld :
    field State.resp (act (ld 0x202) { s0 with fb := [(0, 1), (1, 2), (2, 3), (3, 4)] }) = some (.rdata 0x03) := by decide
/-- V37; and storing the reset value unlists the byte. -/
theorem test_fb_st :
    field (fun t => (t.fb, t.fbByte 15)) (act (st 0x20F 0xAB) s0) = some ([(15, 0xAB)], 0xAB) ∧
    field State.fb (act (st 0x20F 0x00) { s0 with fb := [(3, 1), (15, 0xAB)] }) = some [(3, 1)] := by decide
/-- V41: the least-significant byte first. -/
theorem test_refresh :
    field State.resp (act (.fg .refresh) { s0 with fb := [(4, 0x11), (5, 0x22), (6, 0x33), (7, 0x44)] }) =
      some (.frame [0, 0x44332211, 0, 0] 2 2) := by decide
/-- V47 and V48. -/
theorem test_fault_unmapped :
    field State.fault (act (ld 0x300) s0) = some (some (.unmapped .load 0x300 1)) ∧
    field State.fault (act (.fg (.bus .load 0x300 4 0)) s0) = some (some (.unmapped .load 0x300 4)) := by decide
/-- V45 and V49. -/
theorem test_fault_width :
    field (fun t => (t.fault, uartView t)) (act (.fg (.bus .load 0x100 2 0)) (at0 0 0x21 (.waiting 1))) =
      some (some (.badWidth .load 0x100 2), 0, 0x21, false, .waiting 1) ∧
    field State.fault (act (.fg (.bus .load 0x210 4 0)) s0) = some (some (.badWidth .load 0x210 4)) := by decide
/-- V38 and V39. -/
theorem test_fault_range :
    field State.fault (act (st 0x210 0) s0) = some (some (.outOfRange .store 0x210 1 16)) ∧
    field State.fault (act (ld 0x21F) s0) = some (some (.outOfRange .load 0x21F 1 31)) := by decide
/-- V50. -/
theorem test_fault_fetch : field State.fault (act (.fg (.fetch 0x100)) s0) = some (some (.fetch 0x100)) := by decide
/-- V53: the fault; what `TX` holds is free. -/
theorem test_fault_tx_error :
    field (fun t => (t.fault, t.poisoned)) (act (st 0x100 0x41) { s0 with txFails := true }) =
      some (some (.txError 0x41), true) := by decide
/-- V54. -/
theorem test_no_step_after_a_fault :
    act (ld 0x105) { s0 with fault := some (.fetch 0x100) } = .fault (.fetch 0x100) := rfl

/-- A placed word is what the next step runs: the poll, and a producer that holds a byte. -/
theorem test_placed_word_runs :
    step (State.reset.withFetchWord 8 1) = exec .irqPoll { State.reset with agenda := [] } ∧
    field uartView (step (s0.withFetchWord 16 (0x41 * 2 ^ 8 + 1 * 2 ^ 3 + 2))) =
      some (0x41, 0x21, true, .reading) := ⟨rfl, by decide⟩

/-! ### Witnesses: states and operands that meet the hypotheses of each statement, clause by clause -/

/-- A state under T with nothing stored in the Pixel Store and its lock free is well formed. -/
theorem wf_of_T {s : State} (hp : s.params = T) (hr : s.regs.length = 8) (hc : s.cfg = s0.cfg)
    (hf : s.fb = []) (hl : s.poisoned = false) : s.Wf where
  legal := hp ▸ by decide
  regsLength := by rw [hr, hp]; rfl
  cfgAsConfigured := by rw [hc, hp]; rfl
  fbCanonical := by rw [hf]; simp [Memory.wf]
  fbBelow := by rw [hf]; simp
  poisonedInLock := fun h => by rw [hl] at h; cases h

theorem test_wf_s0 : s0.Wf := wf_of_T rfl rfl rfl rfl rfl
theorem test_wf_at0 (a b : Byte) (r : Rx) : (at0 a b r).Wf := wf_of_T rfl rfl rfl rfl rfl

/-- A state whose Pixel Store lists its first and its last byte, and a poisoned one, are well formed too. -/
theorem test_wf_stored : State.Wf { s0 with fb := [(0, 0x01), (15, 0xAB)] } where
  legal := by decide
  regsLength := rfl
  cfgAsConfigured := rfl
  fbCanonical := by decide
  fbBelow := by decide
  poisonedInLock := fun h => by cases h

theorem test_wf_poisoned : State.Wf { s0 with poisoned := true, fault := some (.txError 0x41) } where
  legal := by decide
  regsLength := rfl
  cfgAsConfigured := rfl
  fbCanonical := by decide
  fbBelow := by decide
  poisonedInLock := fun _ => rfl

/-- A Pixel Store with a byte out of order, or one equal to its reset value, is not canonical. -/
theorem test_not_canonical :
    ¬Memory.wf T.pixelReset [(5, 1), (4, 1)] ∧ ¬Memory.wf T.pixelReset [(4, 1), (4, 2)] ∧
    ¬Memory.wf T.pixelReset [(4, 0)] := by decide

/-- `ResetLeavesTheStatedState`, `ObservationsRightAfterReset`, `ConstructedStateIsWellFormed`. -/
theorem test_witness_construct :
    T.Legal ∧ T.resetDraw = false ∧ 5 < T.uartSize ∧ 7 < T.uartSize ∧ 0 < T.fbLen ∧ 15 < T.fbLen ∧
    Params.Legal { T with resetDraw := true } := by decide

/-- `RhrLoadReturnsTheByteClearsDrAndWakes`: waiting, not waiting, poisoned. -/
theorem test_witness_RhrLoad :
    ((at0 1 0x21 (.waiting 2)).fault = none ∧ (at0 1 0x21 (.waiting 2)).poisoned = false ∧
      (at0 1 0x21 (.waiting 2)).rx = .waiting 2) ∧
    (s0.fault = none ∧ s0.poisoned = false ∧ ∀ b : Byte, s0.rx ≠ .waiting b) ∧
    (State.fault { s0 with poisoned := true } = none ∧ State.poisoned { s0 with poisoned := true } = true) := by
  refine ⟨by decide, ⟨rfl, rfl, fun b h => by cases h⟩, rfl, rfl⟩

/-- `RawRegisterLoadsReturnTheByte` and `RawRegisterStoresWriteTheWholeByte`: offsets 1, 2, 4, 6 and `UART_SIZE`-1. -/
theorem test_witness_raw :
    (s0.fault = none ∧ s0.poisoned = false ∧ ∀ o ∈ [1, 2, 4, 6, 7], s0.params.PlainOffset o) ∧
    (State.fault { s0 with poisoned := true } = none ∧ State.poisoned { s0 with poisoned := true } = true ∧
      ∀ o ∈ [1, 7], State.params { s0 with poisoned := true } |>.PlainOffset o) := by decide

/-- `ThrStoreEmitsTheByte` and `FailingOutputRaisesTxError`. -/
theorem test_witness_thr :
    (s0.fault = none ∧ s0.poisoned = false ∧ s0.txFails = false) ∧
    (State.fault { s0 with poisoned := true } = none ∧ State.poisoned { s0 with poisoned := true } = true) ∧
    (State.fault { s0 with txFails := true } = none ∧ State.poisoned { s0 with txFails := true } = false ∧
      State.txFails { s0 with txFails := true } = true) := by decide

/-- `RawRegisterStoresChangeOneByte`, each of its three forms; the last offset is `UART_SIZE`-1. -/
theorem test_witness_RawRegisterStoresChangeOneByte :
    s0.Wf ∧ s0.poisoned = false ∧ (∃ t, exec (.uartStLcr 0x83) s0 = .next t) ∧
    (∃ t, exec (.uartStLsr 0x20) s0 = .next t) ∧ ∃ t, exec (.uartStReg 7 0xFF) s0 = .next t :=
  ⟨test_wf_s0, rfl, ⟨_, rfl⟩, ⟨_, rfl⟩, ⟨_, rfl⟩⟩

/-- `ReadByteTakesTheOfferedByte`, `ReadErrorIsReportedAndReadingGoesOn`, `EndOfInputStaysReadingOrDrawsAByte`. -/
theorem test_witness_reads :
    ∀ e ∈ [InEvent.inByte 0xFF, .inError, .inEnd],
      State.fault { s0 with rxin := [e] } = none ∧ State.rx { s0 with rxin := [e] } = .reading ∧
      State.rxin { s0 with rxin := [e] } = e :: [] := by decide

/-- `CheckDeliversOrWaits`: the RHR free, the RHR full, poisoned; from `Got` and from `Woken`. -/
theorem test_witness_CheckDeliversOrWaits :
    ((at0 0 0x20 (.got 2)).fault = none ∧ (at0 0 0x20 (.got 2)).rx = .got 2 ∧ (at0 0 0x20 (.got 2)).poisoned = false ∧
      (at0 0 0x20 (.got 2)).dr = false) ∧
    ((at0 0 0x21 (.woken 2)).fault = none ∧ (at0 0 0x21 (.woken 2)).rx = .woken 2 ∧
      (at0 0 0x21 (.woken 2)).poisoned = false ∧ (at0 0 0x21 (.woken 2)).dr = true) ∧
    (State.rx { s0 with poisoned := true, rx := .got 2 } = .got 2 ∧
      State.poisoned { s0 with poisoned := true, rx := .got 2 } = true) := by decide

/-- `SpuriousWakeMovesWaitingToWoken`. -/
theorem test_witness_SpuriousWake :
    State.fault { s0 with params := Tsp, rx := .waiting 2 } = none ∧
    (State.params { s0 with params := Tsp, rx := .waiting 2 }).spuriousWake = true ∧
    State.rx { s0 with params := Tsp, rx := .waiting 2 } = .waiting 2 := by decide

/-- `ProducerHoldsExactlyInTwoCases`, its seven clauses; the last five meet the hypotheses of the clauses above too. -/
theorem test_witness_ProducerHolds :
    (s0.fault = none ∧ s0.rx = .reading ∧ s0.rxin = []) ∧
    ((at0 0 0x21 (.waiting 2)).rx = .waiting 2 ∧ (at0 0 0x21 (.waiting 2)).params.spuriousWake = false) ∧
    (at0 0 0x21 (.got 2)).rx = .got 2 ∧ (at0 0 0x21 (.woken 2)).rx = .woken 2 ∧
    (at0 0 0x21 (.got 2)).fault = none := by decide

/-- `PollReturnsAndClearsIrq`, `RefreshAnswersThePackedFrame`, `FaultRowsRecordTheirFault`. -/
theorem test_witness_running : s0.fault = none ∧ (at0 0 0x21 (.waiting 2)).fault = none := by decide

/-- `PixelByteLoadAndStore`: the first and the last offset. -/
theorem test_witness_PixelByte : s0.fault = none ∧ 0 < s0.params.fbLen ∧ 15 < s0.params.fbLen := by decide

/-- `EachPixelByteIsItsBufferByte` and `RefreshShowsTheStoresBeforeIt`: the first byte and the last byte. -/
theorem test_witness_pixels :
    s0.Wf ∧ s0.fault = none ∧ 0 < s0.cfg.width * s0.cfg.height ∧ 3 < s0.cfg.width * s0.cfg.height ∧ 3 < 4 :=
  ⟨test_wf_s0, by decide⟩

/-- `FrameDeterminesTheBuffer`: two states that differ outside the Pixel Store. -/
theorem test_witness_FrameDetermines :
    s0.Wf ∧ (at0 1 0x21 .reading).Wf ∧ s0.params = (at0 1 0x21 .reading).params ∧
    framePixels s0 = framePixels (at0 1 0x21 .reading) := ⟨test_wf_s0, test_wf_at0 _ _ _, rfl, rfl⟩

/-- `PixelOffsetsAreRowMajorAndDistinct`; V43: pixel (1, 1) is at offsets 12 to 15. -/
theorem test_witness_PixelOffsets :
    s0.Wf ∧ 1 < s0.cfg.width ∧ 1 < s0.cfg.height ∧ pixelOffset s0.cfg.pitch 1 1 0 = 12 ∧
    pixelOffset s0.cfg.pitch 1 1 3 = 15 := ⟨test_wf_s0, by decide⟩

/-- `StoredPixelByteIsReadBack`: another store, a poll and a producer step come between. -/
theorem test_witness_StoredPixelByte :
    s0.Wf ∧ 15 < s0.params.fbLen ∧
    (∀ r : Request, Move.fg r ∈ [st 0x20E 1, .fg .poll, .bg] → ∀ w : Byte,
      decode s0.params (.fg r) ≠ .ok (.fbSt 15 w)) ∧
    ∃ t, runMoves (st (s0.params.fbBase + 15) 0xAB :: [st 0x20E 1, .fg .poll, .bg] ++
      [ld (s0.params.fbBase + 15)]) s0 = .next t := by
  refine ⟨test_wf_s0, by decide, fun r hr w hd => ?_, ⟨_, rfl⟩⟩
  simp only [st, List.mem_cons, Move.fg.injEq, reduceCtorEq, List.not_mem_nil, or_false] at hr
  rcases hr with rfl | rfl
  · exact absurd hd (by rw [show decode s0.params (.fg (.bus .store 0x20E 1 (BitVec.toNat (1 : Byte)))) =
      .ok (.fbSt 14 1) from rfl]; simp)
  · cases hd

/-- `BusRequestsDecodeInTheStatedOrder`, clause by clause, at the ends of each range. -/
theorem test_witness_BusRequests :
    T.Legal ∧ (0x108 < 2 ^ T.addrW ∧ ¬T.InUart 0x108 ∧ ¬T.InFb 0x108) ∧ (0xFFFF < 2 ^ T.addrW ∧ ¬T.InFb 0xFFFF) ∧
    (T.InUart 0x100 ∧ T.InUart 0x107 ∧ (0 : Nat) ≠ 1 ∧ (2 : Nat) ≠ 1) ∧
    (16 < T.fbWindow ∧ T.fbLen ≤ 16 ∧ 0x210 = T.fbBase + 16) ∧
    (31 < T.fbWindow ∧ T.fbLen ≤ 31 ∧ 0x21F = T.fbBase + 31) ∧
    (0 < T.fbLen ∧ 15 < T.fbLen ∧ 0x20F = T.fbBase + 15) ∧ (7 < T.uartSize ∧ 0x107 = T.uartBase + 7) := by decide

/-- `IllegalRequestsRaiseTheirFault`, clause by clause. -/
theorem test_witness_IllegalRequests :
    s0.Wf ∧ s0.fault = none ∧ (0x220 < 2 ^ s0.params.addrW ∧ ¬s0.params.InUart 0x220 ∧ ¬s0.params.InFb 0x220) ∧
    s0.params.InUart 0x107 ∧
    (s0.params.InFb 0x210 ∧ s0.params.fbLen ≤ 0x210 - s0.params.fbBase) ∧
    (s0.params.InFb 0x21F ∧ s0.params.fbLen ≤ 0x21F - s0.params.fbBase) := ⟨test_wf_s0, by decide⟩

/-- `FaultedBlockTakesNoStep`. -/
theorem test_witness_FaultedBlock :
    State.fault { s0 with fault := some (.txError 1) } = some (.txError 1) := rfl

/-- `OrdinaryOperationsNeverFault`. -/
theorem test_witness_OrdinaryOperations :
    s0.Ready ∧ s0.txFails = false ∧ (Instr.uartLdReg 7).wellFormed s0.params = true ∧
    (Instr.fbSt 15 1).wellFormed s0.params = true := by decide

/-- `UartOffsetsIndexTheRegisterFile`: the last offset. -/
theorem test_witness_UartOffsets : s0.Wf ∧ decodeAddr s0.params 0x107 = .uart 7 := ⟨test_wf_s0, rfl⟩

/-- `OperandsOutsideTheirRowAreRefused`. -/
theorem test_witness_OperandsOutside :
    s0.fault = none ∧ (∀ o ∈ [0, 3, 5, 8], ¬s0.params.PlainOffset o) ∧ s0.params.fbLen ≤ 16 := by decide

/-- `DecodingAnEncodedOperationGivesItBack`, `DecodedOperationsAreWellFormed`. -/
theorem test_witness_encode :
    T.Legal ∧ (Instr.busFaultRange .store 0x210 1 16).wellFormed T = true ∧
    (∀ (r : Rx) (e : Option InEvent) (sp : Bool), Key.fg .poll = .rx r e sp → sp = T.spuriousWake) ∧
    decode T (.fg .poll) = .ok .irqPoll := ⟨by decide, by decide, (fun _ _ _ h => by cases h), rfl⟩

/-- `StepRunsTheDecodedOperation`, clause by clause. -/
theorem test_witness_StepRuns :
    (State.agenda { s0 with agenda := [.bg], rx := .got 1 } = .bg :: [] ∧
      moveKey .bg { s0 with agenda := [.bg], rx := .got 1 } = some (.rx (.got 1) none false) ∧
      decode T (.rx (.got 1) none false) = .ok (.rxCheck 1)) ∧
    State.agenda { s0 with agenda := [.offer .inEnd] } = .offer .inEnd :: [] ∧
    State.agenda { s0 with agenda := [.output true] } = .output true :: [] ∧
    (s0.fault = none ∧ s0.agenda = []) := ⟨⟨rfl, rfl, rfl⟩, rfl, rfl, rfl, rfl⟩

/-- `RunsFollowTheAgenda`, `TruePollsAccountForDeliveries`, `BytesAreDeliveredInOrderOnceEach`. -/
theorem test_witness_runs :
    InEvent.inEnd ∉ s0.rxin ∧ InEvent.inEnd ∉ offersOf [.offer (.inByte 0x41), .bg, .bg, .fg .poll] ∧
    ∃ t, runMoves [.offer (.inByte 0x41), .bg, .bg, .fg .poll] s0 = .next t ∧ t.resp = .polled true :=
  ⟨by decide, by decide, _, rfl, rfl⟩

/-- `StepKeepsTheStateWellFormed`. -/
theorem test_witness_StepKeeps : ∃ t, s0.Wf ∧ step s0 = .next t := ⟨_, test_wf_s0, rfl⟩

/-- `OnlyADeliveryWritesTheReceiveByte` and `IrqIsSetByDeliveryAndClearedByPoll`: a delivery, and a poll. -/
theorem test_witness_delivery :
    (∃ t, exec (.rxCheck 0x41) (at0 0 0x20 (.got 0x41)) = .next t ∧ t.reg 0 ≠ (at0 0 0x20 (.got 0x41)).reg 0 ∧
      t.irq ≠ (at0 0 0x20 (.got 0x41)).irq) ∧
    ∃ t, exec .irqPoll { s0 with irq := true } = .next t ∧ t.irq ≠ State.irq { s0 with irq := true } :=
  ⟨⟨_, rfl, by decide, by decide⟩, ⟨_, rfl, by decide⟩⟩

/-- `DrHasExactlyThreeWriters`: each of the three. -/
theorem test_witness_DrHasExactlyThreeWriters :
    (∃ t, exec (.rxCheck 0x41) (at0 0 0x20 (.got 0x41)) = .next t ∧ t.dr ≠ (at0 0 0x20 (.got 0x41)).dr) ∧
    (∃ t, exec .uartLdRhr (at0 0 0x21 .reading) = .next t ∧ t.dr ≠ (at0 0 0x21 .reading).dr) ∧
    ∃ t, exec (.uartStLsr 0x21) s0 = .next t ∧ t.dr ≠ s0.dr :=
  ⟨⟨_, rfl, by decide⟩, ⟨_, rfl, by decide⟩, ⟨_, rfl, by decide⟩⟩

/-- `OtherLsrBitsChangeOnlyByAnLsrStore`: THRE, bit 5, and bit 7. -/
theorem test_witness_OtherLsrBits :
    ∃ t, exec (.uartStLsr 0x80) s0 = .next t ∧ (t.reg 5).getLsbD 5 ≠ (s0.reg 5).getLsbD 5 ∧
      (t.reg 5).getLsbD 7 ≠ (s0.reg 5).getLsbD 7 := ⟨_, rfl, by decide, by decide⟩

/-- `OnlyThrStoresAppendToTx`. -/
theorem test_witness_OnlyThrStores : ∃ t, exec (.uartStThr 0x48) s0 = .next t ∧ t.tx ≠ s0.tx :=
  ⟨_, rfl, by decide⟩

/-- `OnlyFbStoresWritePixelBytes`: the last offset. -/
theorem test_witness_OnlyFbStores : ∃ t, exec (.fbSt 15 0xAB) s0 = .next t ∧ t.fbByte 15 ≠ s0.fbByte 15 :=
  ⟨_, rfl, by decide⟩

/-- `PlainBytesChangeOnlyByTheirStore`: the LCR, and the last plain offset. -/
theorem test_witness_PlainBytes :
    (∃ t, exec (.uartStLcr 0x83) s0 = .next t ∧ t.reg 3 ≠ s0.reg 3) ∧
    ∃ t, exec (.uartStReg 7 0x01) s0 = .next t ∧ t.reg 7 ≠ s0.reg 7 :=
  ⟨⟨_, rfl, by decide⟩, ⟨_, rfl, by decide⟩⟩

/-- `OnlyTxErrorPoisonsTheLock`: a failing store poisons, and a poisoned lock refuses a load. -/
theorem test_witness_OnlyTxErrorPoisons :
    (∃ t, exec (.uartStThr 0x48) { s0 with txFails := true } = .next t ∧
      t.poisoned ≠ State.poisoned { s0 with txFails := true }) ∧
    ∃ t, exec .uartLdLsr { s0 with poisoned := true } = .next t ∧ t.fault = some (.lockPoisoned .uartLdLsr) :=
  ⟨⟨_, rfl, by decide⟩, ⟨_, rfl, rfl⟩⟩

/-- `ProducerAndPollFrame`: each of its operations answers a next state. -/
theorem test_witness_ProducerAndPollFrame :
    (∃ t, exec (.rxReadByte 1) { s0 with rxin := [.inByte 1] } = .next t) ∧
    (∃ t, exec .rxReadErr { s0 with rxin := [.inError] } = .next t) ∧
    (∃ t, exec .rxReadEnd { s0 with rxin := [.inEnd] } = .next t) ∧
    (∃ t, exec (.rxCheck 1) (at0 0 0x20 (.got 1)) = .next t) ∧
    (∃ t, exec (.rxSpurious 1) { s0 with params := Tsp, rx := .waiting 1 } = .next t) ∧
    ∃ t, exec .irqPoll s0 = .next t := ⟨⟨_, rfl⟩, ⟨_, rfl⟩, ⟨_, rfl⟩, ⟨_, rfl⟩, ⟨_, rfl⟩, ⟨_, rfl⟩⟩

/-- `LoadAndRefreshFrame`: each of its operations answers a next state. -/
theorem test_witness_LoadAndRefreshFrame :
    (∃ t, exec .uartLdRhr s0 = .next t) ∧ (∃ t, exec .uartLdLcr s0 = .next t) ∧
    (∃ t, exec .uartLdLsr s0 = .next t) ∧ (∃ t, exec (.uartLdReg 7) s0 = .next t) ∧
    (∃ t, exec (.fbLd 15) s0 = .next t) ∧ ∃ t, exec .fbRefresh s0 = .next t :=
  ⟨⟨_, rfl⟩, ⟨_, rfl⟩, ⟨_, rfl⟩, ⟨_, rfl⟩, ⟨_, rfl⟩, ⟨_, rfl⟩⟩

/-- `UartStoreThenLoadReturnsTheByte`, `OffsetZeroIsNotARoundTrip`, `RepeatedUartLoadsReturnTheSameByte`,
`StoresToDistinctUartOffsetsCommute`. -/
theorem test_witness_register_laws :
    s0.Wf ∧ s0.Ready ∧ s0.txFails = false ∧ (0 : Nat) ≠ 7 ∧ 0 < s0.params.uartSize ∧ 7 < s0.params.uartSize :=
  ⟨test_wf_s0, by decide⟩

/-- `DeliveryBetweenLsrStoreAndLoadShowsDr`, `InterleavedPairsHaveTheStatedOutcomes`: the RHR free, and full. -/
theorem test_witness_handshake :
    ((at0 0 0x20 (.got 1)).Wf ∧ (at0 0 0x20 (.got 1)).Ready ∧ (at0 0 0x20 (.got 1)).rx = .got 1 ∧
      (at0 0 0x20 (.got 1)).dr = false) ∧
    ((at0 0 0x21 (.got 1)).Wf ∧ (at0 0 0x21 (.got 1)).Ready ∧ (at0 0 0x21 (.got 1)).dr = true) ∧
    BitVec.getLsbD (0xFE : Byte) 0 = false ∧ BitVec.getLsbD (0x01 : Byte) 0 = true :=
  ⟨⟨test_wf_at0 _ _ _, by decide⟩, ⟨test_wf_at0 _ _ _, by decide⟩, by decide⟩

/-- `DrIsOneExactlyWhileAByteIsUnread`: a run with a delivery and an RHR load. -/
theorem test_witness_DrIsOneExactly :
    s0.Wf ∧ s0.Mailbox ∧ NoLsrStore s0.params [.offer (.inByte 0x41), .bg, .bg, ld 0x100] ∧
    ∃ t, runMoves [.offer (.inByte 0x41), .bg, .bg, ld 0x100] s0 = .next t := by
  refine ⟨test_wf_s0, (fun b h => by cases h), fun r hr v hd => ?_, ⟨_, rfl⟩⟩
  simp only [ld, List.mem_cons, Move.fg.injEq, reduceCtorEq, List.not_mem_nil, or_false, false_or] at hr
  subst hr
  cases hd

/-- A run of producer moves alone from a state that holds for ever after its first one. -/
theorem runTo_bg {s t : State} (h1 : act .bg s = .next t) (h2 : act .bg t = .next { t with resp := .held })
    (h3 : act .bg { t with resp := .held } = .next { t with resp := .held }) (n : Nat) :
    runTo (fun _ => .bg) s (n + 2) = .next { t with resp := .held } := by
  induction n with
  | zero => simp [runTo, h1, h2]
  | succ k ih => rw [runTo, ih]; exact h3

/-- `FairProducerTakesItsStep`: producer moves for ever, from a producer with a byte and from one with an event. -/
theorem test_witness_FairProducer :
    ∀ s ∈ [at0 0 0x20 (.got 1), { s0 with rxin := [.inError] }],
      WeaklyFair (fun _ => .bg) s ∧ (checkEnabled s = true ∨ readEnabled s = true) ∧
      ∀ n, ∃ t : State, runTo (fun _ => .bg) s n = .next t ∧ t.fault = none := by
  intro s hs
  refine ⟨fun n _ => ⟨n, Nat.le_refl n, rfl⟩, ?_, fun n => ?_⟩
  · simp only [List.mem_cons, List.not_mem_nil, or_false] at hs
    rcases hs with rfl | rfl
    · exact .inl rfl
    · exact .inr rfl
  · simp only [List.mem_cons, List.not_mem_nil, or_false] at hs
    rcases hs with rfl | rfl <;> match n with
    | 0 => exact ⟨_, rfl, rfl⟩
    | 1 => exact ⟨_, rfl, rfl⟩
    | k + 2 => exact ⟨_, runTo_bg rfl rfl rfl k, rfl⟩

end Sys2Proof.Tests
end

section
/-! SUPPORT. Everything one operation, one move and one step can change, said once, and the statements of
spec/10_state.md that follow from it: the well-formedness invariant, the writers of each component, and reset. -/

namespace Sys2Proof.Machine

/-! ### Register bytes -/

/-- A register byte that a write changes is the one written; it exists and holds the value of the write. -/
theorem State.reg_setReg_changed {s : State} {o k : Nat} {v : Byte} (h : (s.setReg o v).reg k ≠ s.reg k) :
    k = o ∧ o < s.regs.length ∧ (s.setReg o v).reg k = v := by
  rw [State.reg_setReg] at h ⊢
  by_cases hk : k = o ∧ o < s.regs.length
  · exact ⟨hk.1, hk.2, if_pos hk⟩
  · exact absurd (if_neg hk) h

theorem getLsbD_withDrSet (l : Byte) {n : Nat} (hn : n ≠ 0) : (withDrSet l).getLsbD n = l.getLsbD n := by
  simp [withDrSet, BitVec.getLsbD_one, hn]

theorem getLsbD_withDrClear (l : Byte) {n : Nat} (hn : n ≠ 0) : (withDrClear l).getLsbD n = l.getLsbD n := by
  by_cases h8 : n < 8
  · have mask : ∀ m < 8, m ≠ 0 → (0xFE : Byte).getLsbD m = true := by decide
    rw [withDrClear, BitVec.getLsbD_and, mask n h8 hn, Bool.and_true]
  · rw [BitVec.getLsbD_of_ge _ _ (Nat.le_of_not_lt h8), BitVec.getLsbD_of_ge _ _ (Nat.le_of_not_lt h8)]

/-! ### `wake` and `deliver`, field by field -/

section
variable (s : State) (b : Byte)

@[simp] theorem wake_params : (wake s).params = s.params := by rw [wake_eq]; rfl
@[simp] theorem wake_regs : (wake s).regs = s.regs := by rw [wake_eq]; rfl
@[simp] theorem wake_irq : (wake s).irq = s.irq := by rw [wake_eq]; rfl
@[simp] theorem wake_poisoned : (wake s).poisoned = s.poisoned := by rw [wake_eq]; rfl
@[simp] theorem wake_fb : (wake s).fb = s.fb := by rw [wake_eq]; rfl
@[simp] theorem wake_cfg : (wake s).cfg = s.cfg := by rw [wake_eq]; rfl
@[simp] theorem wake_tx : (wake s).tx = s.tx := by rw [wake_eq]; rfl
@[simp] theorem wake_fault : (wake s).fault = s.fault := by rw [wake_eq]; rfl
@[simp] theorem wake_resp : (wake s).resp = s.resp := by rw [wake_eq]; rfl
@[simp] theorem wake_rxin : (wake s).rxin = s.rxin := by rw [wake_eq]; rfl
@[simp] theorem wake_txFails : (wake s).txFails = s.txFails := by rw [wake_eq]; rfl
@[simp] theorem wake_agenda : (wake s).agenda = s.agenda := by rw [wake_eq]; rfl
@[simp] theorem wake_draws : (wake s).draws = s.draws := by rw [wake_eq]; rfl
@[simp] theorem wake_reg (k : Nat) : (wake s).reg k = s.reg k := by rw [wake_eq]; rfl
@[simp] theorem wake_fbByte (k : Nat) : (wake s).fbByte k = s.fbByte k := by rw [wake_eq]; rfl

@[simp] theorem deliver_params : (deliver b s).params = s.params := rfl
@[simp] theorem deliver_irq : (deliver b s).irq = true := rfl
@[simp] theorem deliver_poisoned : (deliver b s).poisoned = s.poisoned := rfl
@[simp] theorem deliver_rx : (deliver b s).rx = .reading := rfl
@[simp] theorem deliver_fb : (deliver b s).fb = s.fb := rfl
@[simp] theorem deliver_cfg : (deliver b s).cfg = s.cfg := rfl
@[simp] theorem deliver_tx : (deliver b s).tx = s.tx := rfl
@[simp] theorem deliver_fault : (deliver b s).fault = s.fault := rfl
@[simp] theorem deliver_resp : (deliver b s).resp = s.resp := rfl
@[simp] theorem deliver_rxin : (deliver b s).rxin = s.rxin := rfl
@[simp] theorem deliver_txFails : (deliver b s).txFails = s.txFails := rfl
@[simp] theorem deliver_agenda : (deliver b s).agenda = s.agenda := rfl
@[simp] theorem deliver_draws : (deliver b s).draws = s.draws := rfl
@[simp] theorem deliver_fbByte (k : Nat) : (deliver b s).fbByte k = s.fbByte k := rfl
@[simp] theorem deliver_length_regs : (deliver b s).regs.length = s.regs.length := by simp [deliver]

end

/-- The registers after a delivery: the RHR holds the byte and `LSR.DR` is set (R97). -/
theorem deliver_reg (s : State) (b : Byte) (k : Nat) :
    (deliver b s).reg k = ((s.setReg offRhr b).setReg offLsr (withDrSet (s.reg offLsr))).reg k := by
  rw [← State.reg_setReg_ne s b (by decide : offLsr ≠ offRhr)]
  rfl

/-- A delivery writes no register byte but the RHR and the LSR. -/
theorem deliver_reg_of_ne (s : State) (b : Byte) {k : Nat} (h0 : k ≠ offRhr) (h5 : k ≠ offLsr) :
    (deliver b s).reg k = s.reg k := by
  rw [deliver_reg, State.reg_setReg_ne _ _ h5, State.reg_setReg_ne _ _ h0]

/-- A delivery that changes a register byte at all has put its byte into the RHR; the byte changed is that one, or the
LSR, whose `DR` is set. -/
theorem deliver_reg_changed {s : State} {b : Byte} {k : Nat} (h : (deliver b s).reg k ≠ s.reg k) :
    (deliver b s).reg 0 = b ∧ (k = 0 ∨ k = 5 ∧ (deliver b s).reg 5 = withDrSet (s.reg 5)) := by
  have hrhr : (deliver b s).reg 0 = (s.setReg offRhr b).reg 0 := by
    rw [deliver_reg, State.reg_setReg_ne _ _ (by decide : 0 ≠ offLsr)]
  by_cases h5 : k = offLsr
  · subst h5
    rw [deliver_reg, ← State.reg_setReg_ne s b (by decide : offLsr ≠ offRhr)] at h
    obtain ⟨-, hlen, hset⟩ := State.reg_setReg_changed h
    rw [State.setReg_regs, List.length_set] at hlen
    rw [State.reg_setReg_ne s b (by decide : offLsr ≠ offRhr), ← deliver_reg] at hset
    exact ⟨hrhr.trans (State.reg_setReg_self s b (Nat.zero_lt_of_lt hlen)), .inr ⟨rfl, hset⟩⟩
  · rw [deliver_reg, State.reg_setReg_ne _ _ h5] at h
    obtain ⟨rfl, -, hb⟩ := State.reg_setReg_changed h
    exact ⟨hrhr.trans hb, .inl rfl⟩

/-! ### Everything an operation can change -/

/-- `t` differs from `s` at most in `rx`, `fault`, `resp`, `rxin` and `draws`. -/
structure State.SameData (s t : State) : Prop where
  params : t.params = s.params
  regs : t.regs = s.regs
  irq : t.irq = s.irq
  poisoned : t.poisoned = s.poisoned
  fb : t.fb = s.fb
  cfg : t.cfg = s.cfg
  tx : t.tx = s.tx
  txFails : t.txFails = s.txFails
  agenda : t.agenda = s.agenda

namespace State.SameData
variable {s t : State}

theorem reg (h : s.SameData t) (k : Nat) : t.reg k = s.reg k := by rw [State.reg, State.reg, h.regs]

theorem fbByte (h : s.SameData t) (k : Nat) : t.fbByte k = s.fbByte k := by
  rw [State.fbByte, State.fbByte, h.fb, h.params]

protected theorem refl (s : State) : s.SameData s := ⟨rfl, rfl, rfl, rfl, rfl, rfl, rfl, rfl, rfl⟩

protected theorem respond {r : Response} (h : s.SameData t) : s.SameData (t.respond r) := { h with }
protected theorem setFault {f : Fault} (h : s.SameData t) : s.SameData (t.setFault f) := { h with }
protected theorem setRx {x : Rx} (h : s.SameData t) : s.SameData (t.setRx x) := { h with }
protected theorem setRxin {es : List InEvent} (h : s.SameData t) : s.SameData (t.setRxin es) := { h with }
protected theorem countDraw (h : s.SameData t) : s.SameData (t.countDraw) := { h with }
protected theorem consumeEvent (h : s.SameData t) : s.SameData (consumeEvent t) := h.setRxin

end State.SameData

/-- The operation stores the raw byte `v` at register offset `o` (R88 to R90). -/
inductive RawStore (p : Params) : Instr → Nat → Byte → Prop where
  | lcr (v : Byte) : RawStore p (.uartStLcr v) offLcr v
  | lsr (v : Byte) : RawStore p (.uartStLsr v) offLsr v
  | plain (o : Nat) (v : Byte) (ho : p.PlainOffset o) : RawStore p (.uartStReg o v) o v

theorem RawStore.offset_ne_zero {p : Params} {i : Instr} {o : Nat} {v : Byte} (h : RawStore p i o v) : o ≠ 0 := by
  cases h with
  | lcr => decide
  | lsr => decide
  | plain _ _ ho => simp only [Params.PlainOffset] at ho; omega

/-- A raw store to offset 5 is the LSR store. -/
theorem RawStore.eq_lsr {p : Params} {i : Instr} {v : Byte} (h : RawStore p i 5 v) : i = .uartStLsr v := by
  cases h with
  | lsr => rfl
  | plain _ _ ho => simp only [Params.PlainOffset] at ho; omega

/-- A raw store to another offset is the store of R90 there, or the LCR store. -/
theorem RawStore.eq_reg_or_lcr {p : Params} {i : Instr} {o : Nat} {v : Byte} (h : RawStore p i o v) (h5 : o ≠ 5) :
    i = .uartStReg o v ∨ (o = 3 ∧ i = .uartStLcr v) := by
  cases h with
  | lcr => exact .inr ⟨rfl, rfl⟩
  | lsr => exact absurd rfl h5
  | plain => exact .inl rfl

/-- The next states operation `i` can have from `s`, sorted by the component it writes. -/
inductive Effect (s : State) : Instr → State → Prop where
  /-- A raw load, a refresh, a raised fault, a hold, a read of an event, or a producer that waits or wakes. -/
  | quiet {i : Instr} {t : State} (same : s.SameData t) : Effect s i t
  | rhrLoad :
    Effect s .uartLdRhr (((wake s).setReg offLsr (withDrClear (s.reg offLsr))).respond (.rdata (s.reg offRhr)))
  | rawStore {i : Instr} {o : Nat} {v : Byte} (store : RawStore s.params i o v) :
    Effect s i ((s.setReg o v).respond .ack)
  | thrStore (v : Byte) : Effect s (.uartStThr v) ((s.pushTx v).respond .ack)
  /-- A THR store whose flush fails; `s'` has the byte in `TX` or not. -/
  | thrFail (v : Byte) (s' : State) (keeps : s' = s.pushTx v ∨ s' = s) :
    Effect s (.uartStThr v) (((s'.countDraw.setPoisoned true).setFault (.txError v)).respond .silent)
  | fbStore (o : Nat) (v : Byte) (below : o < s.params.fbLen) : Effect s (.fbSt o v) ((s.setFbByte o v).respond .ack)
  | poll : Effect s .irqPoll ((s.setIrq false).respond (.polled s.irq))
  | delivery (b : Byte) (holds : s.rx = .got b ∨ s.rx = .woken b) (empty : s.dr = false) :
    Effect s (.rxCheck b) ((deliver b s).respond .silent)

/-- Every next state of an operation is one of its effects. -/
theorem exec_effect {i : Instr} {s t : State} (h : exec i s = .next t) : Effect s i t := by
  have same := State.SameData.refl s
  cases i with
  | fetchFault a => obtain ⟨-, rfl⟩ := execFetchFault_next h; exact .quiet same.setFault.respond
  | busFaultUnmapped k a n => obtain ⟨-, rfl⟩ := execBusFaultUnmapped_next h; exact .quiet same.setFault.respond
  | busFaultWidth k a n => obtain ⟨-, rfl⟩ := execBusFaultWidth_next h; exact .quiet same.setFault.respond
  | busFaultRange k a n o => obtain ⟨-, rfl⟩ := execBusFaultRange_next h; exact .quiet same.setFault.respond
  | uartLdRhr =>
    obtain ⟨-, ⟨-, rfl⟩ | ⟨-, rfl⟩⟩ := execUartLdRhr_next h
    · exact .quiet same.setFault.respond
    · exact .rhrLoad
  | uartLdLcr =>
    obtain ⟨-, ⟨-, rfl⟩ | ⟨-, rfl⟩⟩ := execUartLdLcr_next h
    · exact .quiet same.setFault.respond
    · exact .quiet same.respond
  | uartLdLsr =>
    obtain ⟨-, ⟨-, rfl⟩ | ⟨-, rfl⟩⟩ := execUartLdLsr_next h
    · exact .quiet same.setFault.respond
    · exact .quiet same.respond
  | uartLdReg o =>
    obtain ⟨-, -, ⟨-, rfl⟩ | ⟨-, rfl⟩⟩ := execUartLdReg_next h
    · exact .quiet same.setFault.respond
    · exact .quiet same.respond
  | uartStThr v =>
    obtain ⟨-, ⟨-, rfl⟩ | ⟨-, -, rfl⟩ | ⟨-, -, s', keeps, rfl⟩⟩ := execUartStThr_next h
    · exact .quiet same.setFault.respond
    · exact .thrStore v
    · exact .thrFail v s' keeps
  | uartStLcr v =>
    obtain ⟨-, ⟨-, rfl⟩ | ⟨-, rfl⟩⟩ := execUartStLcr_next h
    · exact .quiet same.setFault.respond
    · exact .rawStore (.lcr v)
  | uartStLsr v =>
    obtain ⟨-, ⟨-, rfl⟩ | ⟨-, rfl⟩⟩ := execUartStLsr_next h
    · exact .quiet same.setFault.respond
    · exact .rawStore (.lsr v)
  | uartStReg o v =>
    obtain ⟨-, ho, ⟨-, rfl⟩ | ⟨-, rfl⟩⟩ := execUartStReg_next h
    · exact .quiet same.setFault.respond
    · exact .rawStore (.plain o v ho)
  | fbLd o => obtain ⟨-, -, rfl⟩ := execFbLd_next h; exact .quiet same.respond
  | fbSt o v => obtain ⟨-, ho, rfl⟩ := execFbSt_next h; exact .fbStore o v ho
  | irqPoll => obtain ⟨-, rfl⟩ := execIrqPoll_next h; exact .poll
  | rxReadByte b =>
    obtain ⟨-, ⟨-, -, rfl⟩ | ⟨-, rfl⟩⟩ := execRxReadByte_next h
    · exact .quiet same.consumeEvent.setRx.respond
    · exact .quiet same.respond
  | rxReadErr =>
    obtain ⟨-, ⟨-, -, rfl⟩ | ⟨-, rfl⟩⟩ := execRxReadErr_next h
    · exact .quiet same.consumeEvent.respond
    · exact .quiet same.respond
  | rxReadEnd =>
    obtain ⟨-, ⟨-, -, r, -, rfl⟩ | ⟨-, rfl⟩⟩ := execRxReadEnd_next h
    · exact .quiet same.consumeEvent.setRx.countDraw.respond
    · exact .quiet same.respond
  | rxCheck b =>
    obtain ⟨-, ⟨holds, ⟨-, rfl⟩ | ⟨-, -, rfl⟩ | ⟨-, empty, rfl⟩⟩ | ⟨-, rfl⟩⟩ := execRxCheck_next h
    · exact .quiet same.setFault.respond
    · exact .quiet same.setRx.respond
    · exact .delivery b holds empty
    · exact .quiet same.respond
  | rxSpurious b =>
    obtain ⟨-, ⟨-, -, rfl⟩ | ⟨-, rfl⟩⟩ := execRxSpurious_next h
    · exact .quiet same.setRx.respond
    · exact .quiet same.respond
  | fbRefresh => obtain ⟨-, rfl⟩ := execFbRefresh_next h; exact .quiet same.respond

/-! ### The well-formedness invariant (R44) -/

/-- What every step keeps of the state it starts from: well-formedness, the parameters and the configuration. -/
abbrev State.Keeps (s t : State) : Prop := t.Wf ∧ t.params = s.params ∧ t.cfg = s.cfg

/-- `State.Wf.of_same`, with the parameters and the configuration it takes as kept. -/
theorem State.Wf.keeps_of_same {s t : State} (h : s.Wf) (hp : t.params = s.params) (hr : t.regs.length = s.regs.length)
    (hc : t.cfg = s.cfg) (hf : t.fb = s.fb) (hl : t.poisoned = true → raisedInLock t.fault = true) : s.Keeps t :=
  ⟨h.of_same hp hr hc hf hl, hp, hc⟩

/-- A Pixel Store write below `FB_LEN` keeps the state well formed. -/
theorem State.Wf.setFbByte {s : State} (h : s.Wf) {o : Nat} (v : Byte) (ho : o < s.params.fbLen) :
    (s.setFbByte o v).Wf where
  legal := h.legal
  regsLength := h.regsLength
  cfgAsConfigured := h.cfgAsConfigured
  fbCanonical := memWrite_wf o v h.fbCanonical
  fbBelow := memWrite_below v ho h.fbBelow
  poisonedInLock := h.poisonedInLock

/-- Every effect of an operation keeps a well-formed running state well formed. The lock is free there, so it is
poisoned afterwards only by the failed flush, which raises its fault with it (R127). -/
theorem Effect.keeps_wf {i : Instr} {s t : State} (hs : s.Wf) (hrun : s.fault = none) (h : Effect s i t) :
    s.Keeps t := by
  have hfree := hs.lock_free hrun
  cases h with
  | quiet same =>
    exact hs.keeps_of_same same.params (by rw [same.regs]) same.cfg same.fb (by simp [same.poisoned, hfree])
  | rhrLoad => exact hs.keeps_of_same (by simp) (by simp) (by simp) (by simp) (by simp [hfree])
  | rawStore => exact hs.keeps_of_same rfl (by simp) rfl rfl (by simp [hfree])
  | thrStore => exact hs.keeps_of_same rfl rfl rfl rfl (by simp [hfree])
  | thrFail v s' keeps =>
    rcases keeps with rfl | rfl <;> exact hs.keeps_of_same rfl rfl rfl rfl fun _ => rfl
  | fbStore o v below =>
    exact ⟨(hs.setFbByte v below).of_same rfl rfl rfl rfl (by simp [hfree]), rfl, rfl⟩
  | poll => exact hs.keeps_of_same rfl rfl rfl rfl (by simp [hfree])
  | delivery => exact hs.keeps_of_same rfl (by simp) rfl rfl (by simp [hfree])

/-- One agent's step keeps the state well formed. -/
theorem act_keeps_wf {m : Move} {s t : State} (hs : s.Wf) (h : act m s = .next t) : s.Keeps t := by
  obtain ⟨hrun, ⟨i, -, hi⟩ | ⟨-, ⟨-, rfl⟩ | ⟨e, -, rfl⟩ | ⟨f, -, rfl⟩⟩⟩ := act_next h
  · exact (exec_effect hi).keeps_wf hs hrun
  all_goals exact hs.keeps_of_same rfl rfl rfl rfl hs.poisonedInLock

/-- Everything a next state of the machine can be: a hold on an empty agenda, or the step of the first move. -/
theorem step_next {s t : State} (h : step s = .next t) :
    s.fault = none ∧
      ((s.agenda = [] ∧ t = s.respond .held) ∨
        ∃ m rest, s.agenda = m :: rest ∧ act m (s.setAgenda rest) = .next t) := by
  obtain ⟨hrun, hb⟩ := whileRunning_next h
  unfold nextMove at hb
  split at hb
  · next ha => exact ⟨hrun, .inl ⟨ha, hold_next hb⟩⟩
  · next m rest ha => exact ⟨hrun, .inr ⟨m, rest, ha, hb⟩⟩

/-- Settles O38: the effects of `exec` keep well-formedness, and so does every move of the agenda. -/
theorem stepKeepsTheStateWellFormed : Obligations.StepKeepsTheStateWellFormed := by
  intro s t hs h
  obtain ⟨-, ⟨-, rfl⟩ | ⟨m, rest, -, hact⟩⟩ := step_next h
  · exact hs.keeps_of_same rfl rfl rfl rfl hs.poisonedInLock
  · have hplaced : (s.setAgenda rest).Wf := hs.of_same rfl rfl rfl rfl hs.poisonedInLock
    obtain ⟨hwf, hparams, hcfg⟩ := act_keeps_wf hplaced hact
    exact ⟨hwf, hparams, hcfg⟩

/-! ### The writers of each component (R24 to R43) -/

/-- The writers of a register byte: the RHR load clears `LSR.DR`, a raw store writes its own byte, and a delivery
writes the RHR and sets `LSR.DR`. -/
theorem exec_reg_changed {i : Instr} {s t : State} {k : Nat} (h : exec i s = .next t) (hk : t.reg k ≠ s.reg k) :
    (i = .uartLdRhr ∧ k = 5 ∧ t.reg 5 = withDrClear (s.reg 5)) ∨
      (∃ v, RawStore s.params i k v ∧ t.reg k = v) ∨
      ∃ b, i = .rxCheck b ∧ (s.rx = .got b ∨ s.rx = .woken b) ∧ s.dr = false ∧ t.reg 0 = b ∧
        (k = 0 ∨ k = 5 ∧ t.reg 5 = withDrSet (s.reg 5)) := by
  cases exec_effect h with
  | quiet same => exact absurd (same.reg k) hk
  | rhrLoad =>
    rw [State.reg_respond, ← wake_reg s k] at hk
    obtain ⟨rfl, -, hv⟩ := State.reg_setReg_changed hk
    exact .inl ⟨rfl, rfl, hv⟩
  | rawStore store =>
    obtain ⟨rfl, -, hv⟩ := State.reg_setReg_changed hk
    exact .inr (.inl ⟨_, store, hv⟩)
  | thrStore => exact absurd rfl hk
  | thrFail v s' keeps => rcases keeps with rfl | rfl <;> exact absurd rfl hk
  | fbStore => exact absurd rfl hk
  | poll => exact absurd rfl hk
  | delivery b holds empty => exact .inr (.inr ⟨b, rfl, holds, empty, deliver_reg_changed hk⟩)

/-- Settles O39: of the three writers of a register byte, only the delivery writes offset 0. -/
theorem onlyADeliveryWritesTheReceiveByte : Obligations.OnlyADeliveryWritesTheReceiveByte := by
  intro i s t h hne
  obtain ⟨-, h05, -⟩ | ⟨v, store, -⟩ | ⟨b, rfl, holds, empty, hb, -⟩ := exec_reg_changed h hne
  · cases h05
  · exact absurd rfl store.offset_ne_zero
  · exact ⟨b, rfl, holds, empty, hb⟩

/-- Settles O40: `DR` is bit 0 of register byte 5. -/
theorem drHasExactlyThreeWriters : Obligations.DrHasExactlyThreeWriters := by
  intro i s t h hne
  have hlsr : t.reg 5 ≠ s.reg 5 := fun he => hne (congrArg flagDr he)
  obtain ⟨rfl, -, hclear⟩ | ⟨v, store, hv⟩ | ⟨b, rfl, -, -, hb, h50 | ⟨-, hset⟩⟩ := exec_reg_changed h hlsr
  · exact .inr (.inl ⟨rfl, (congrArg flagDr hclear).trans (flagDr_withDrClear _)⟩)
  · exact .inr (.inr ⟨v, store.eq_lsr, congrArg flagDr hv⟩)
  · cases h50
  · exact .inl ⟨b, rfl, (congrArg flagDr hset).trans (flagDr_withDrSet _), hb⟩

/-- Settles O41: the RHR load and the delivery write only bit 0 of the LSR. -/
theorem otherLsrBitsChangeOnlyByAnLsrStore : Obligations.OtherLsrBitsChangeOnlyByAnLsrStore := by
  intro i s t n h hn hne
  have hlsr : t.reg 5 ≠ s.reg 5 := fun he => hne (by rw [he])
  obtain ⟨-, -, hclear⟩ | ⟨v, store, hv⟩ | ⟨-, -, -, -, -, h50 | ⟨-, hset⟩⟩ := exec_reg_changed h hlsr
  · exact absurd (by rw [hclear, getLsbD_withDrClear _ hn]) hne
  · exact ⟨v, store.eq_lsr, hv⟩
  · cases h50
  · exact absurd (by rw [hset, getLsbD_withDrSet _ hn]) hne

/-- Settles O45: at an offset other than 0 and 5 the only writer of a register byte is the raw store. -/
theorem plainBytesChangeOnlyByTheirStore : Obligations.PlainBytesChangeOnlyByTheirStore := by
  intro i s t o h h0 h5 hne
  obtain ⟨-, ho, -⟩ | ⟨v, store, hv⟩ | ⟨-, -, -, -, -, ho | ⟨ho, -⟩⟩ := exec_reg_changed h hne
  · exact absurd ho h5
  · exact ⟨v, store.eq_reg_or_lcr h5, hv⟩
  · exact absurd ho h0
  · exact absurd ho h5

/-- Settles O42: a poll that changes `irq` found it `true`, which is what it returned. -/
theorem irqIsSetByDeliveryAndClearedByPoll : Obligations.IrqIsSetByDeliveryAndClearedByPoll := by
  intro i s t h hne
  cases exec_effect h with
  | quiet same => exact absurd same.irq hne
  | rhrLoad => exact absurd (wake_irq s) hne
  | rawStore => exact absurd rfl hne
  | thrStore => exact absurd rfl hne
  | thrFail v s' keeps => rcases keeps with rfl | rfl <;> exact absurd rfl hne
  | fbStore => exact absurd rfl hne
  | poll =>
    have hset : s.irq = true := Bool.eq_true_of_not_eq_false fun hf => hne hf.symm
    exact .inr ⟨rfl, rfl, congrArg Response.polled hset⟩
  | delivery b _ empty => exact .inl ⟨b, rfl, empty, rfl⟩

/-- Settles O43: also the byte that a failed flush keeps is the store's own. -/
theorem onlyThrStoresAppendToTx : Obligations.OnlyThrStoresAppendToTx := by
  intro i s t h hne
  cases exec_effect h with
  | quiet same => exact absurd same.tx hne
  | rhrLoad => exact absurd (wake_tx s) hne
  | rawStore => exact absurd rfl hne
  | thrStore v => exact ⟨v, rfl, rfl⟩
  | thrFail v s' keeps =>
    rcases keeps with rfl | rfl
    · exact ⟨v, rfl, rfl⟩
    · exact absurd rfl hne
  | fbStore => exact absurd rfl hne
  | poll => exact absurd rfl hne
  | delivery => exact absurd rfl hne

/-- Settles O44, by what a Pixel Store read returns after a write. -/
theorem onlyFbStoresWritePixelBytes : Obligations.OnlyFbStoresWritePixelBytes := by
  intro i s t o h hne
  cases exec_effect h with
  | quiet same => exact absurd (same.fbByte o) hne
  | rhrLoad => exact absurd (wake_fbByte s o) hne
  | rawStore => exact absurd rfl hne
  | thrStore => exact absurd rfl hne
  | thrFail v s' keeps => rcases keeps with rfl | rfl <;> exact absurd rfl hne
  | fbStore a v =>
    rw [State.fbByte_respond, State.fbByte_setFbByte] at hne ⊢
    by_cases ha : o = a
    · exact ⟨v, ha ▸ rfl, if_pos ha⟩
    · exact absurd (if_neg ha) hne
  | poll => exact absurd rfl hne
  | delivery => exact absurd rfl hne

/-! ### Construction and reset (R42) -/

theorem reg_construct (p : Params) {o : Nat} (ho : o < p.uartSize) :
    (State.construct p).reg o = resetRegByte p o := by
  simp [State.reg, State.construct, ho]

/-- The reset LSR has `DR` 0 and `THRE` 1 under either setting of `RESET_DRAW` (R42). -/
theorem flags_resetRegByte (p : Params) : flagDr (resetRegByte p 5) = false ∧ flagThre (resetRegByte p 5) = true := by
  have drawn : ∀ l : Byte, flagDr ((l &&& 0xDE) ||| 0x20) = false ∧ flagThre ((l &&& 0xDE) ||| 0x20) = true := by decide
  cases hd : p.resetDraw with
  | true => simpa [resetRegByte, hd] using drawn (Config.resetReg 5)
  | false => simp only [resetRegByte, hd]; decide

theorem resetRegByte_of_not_drawn {p : Params} (hd : p.resetDraw = false) (o : Nat) :
    resetRegByte p o = if o = 5 then 0x20 else 0x00 := by
  simp [resetRegByte, hd]

/-- Settles O1: the LSR flags stand under either setting of `RESET_DRAW`; the rest is construction, read off. -/
theorem resetLeavesTheStatedState : Obligations.ResetLeavesTheStatedState := by
  obtain ⟨legal, noSpurious, noDraw⟩ := Config.params_legal
  refine ⟨rfl, legal, noSpurious, noDraw, fun p hp => ?_⟩
  have hlsr : (State.construct p).reg 5 = resetRegByte p 5 := reg_construct p hp.1
  obtain ⟨hdr, hthre⟩ := flags_resetRegByte p
  refine ⟨rfl, by simp [State.construct], (congrArg flagDr hlsr).trans hdr, (congrArg flagThre hlsr).trans hthre,
    rfl, rfl, rfl, rfl, rfl, fun hd => ⟨fun o ho => ?_, ?_, fun o => ?_⟩⟩
  · rw [reg_construct p ho, resetRegByte_of_not_drawn hd]
  · simp [State.construct, hd]
  · simp [State.fbByte, State.construct, memRead, Params.pixelReset, hd]

theorem State.Wf.construct {p : Params} (hp : p.Legal) : (State.construct p).Wf where
  legal := hp
  regsLength := by simp [State.construct]
  cfgAsConfigured := rfl
  fbCanonical := construct_fb_wf p
  fbBelow := fun _ hc => absurd hc List.not_mem_nil
  poisonedInLock := fun h => absurd h Bool.false_ne_true

/-- Settles O3: construction is well formed, and the configuration after reset is legal. -/
theorem constructedStateIsWellFormed : Obligations.ConstructedStateIsWellFormed :=
  ⟨fun _ => State.Wf.construct, State.Wf.construct Config.params_legal.1⟩

/-! ### The frame of the producer's steps and of the poll -/

/-- Settles O47: the six operations are quiet but for the delivery and the poll. -/
theorem producerAndPollFrame : Obligations.ProducerAndPollFrame := by
  intro i s t b hi h
  have hpoll : i = .irqPoll → t.rx = s.rx ∧ t.rxin = s.rxin ∧ t.fault = s.fault := by
    rintro rfl
    obtain ⟨-, rfl⟩ := execIrqPoll_next h
    exact ⟨rfl, rfl, rfl⟩
  cases exec_effect h with
  | quiet same =>
    exact ⟨fun o _ _ => same.reg o, fun _ => same.reg, same.fbByte, same.fb, same.tx, same.cfg, same.params,
      same.poisoned, same.txFails, same.agenda, hpoll⟩
  | poll =>
    exact ⟨fun _ _ _ => rfl, fun _ _ => rfl, fun _ => rfl, rfl, rfl, rfl, rfl, rfl, rfl, rfl, hpoll⟩
  | delivery d =>
    obtain rfl : d = b := by simpa using hi
    exact ⟨fun _ => deliver_reg_of_ne s d, fun hne => absurd rfl hne, fun _ => rfl, rfl, rfl, rfl, rfl, rfl, rfl,
      rfl, hpoll⟩
  | rhrLoad => simp at hi
  | rawStore store => cases store <;> simp at hi
  | thrStore => simp at hi
  | thrFail => simp at hi
  | fbStore => simp at hi

end Sys2Proof.Machine
end

section
/-! SUPPORT. The memory map and the order of steps (spec/20_memory.md): what each BUS request and each fetch decodes to,
what a move answers, and the statements that follow. -/

namespace Sys2Proof

/-! ### What a request decodes to (R49 to R54, R64) -/

section
variable {p : Params} {addr size value : Nat} {kind : AccessKind}

theorem decode_bus (hw : addr < 2 ^ p.addrW) :
    decode p (.fg (.bus kind addr size value)) = .ok (decodeBus p kind addr size value) :=
  if_neg (Nat.not_le.2 hw)

theorem decode_unmapped (hw : addr < 2 ^ p.addrW) (hu : ¬p.InUart addr) (hf : ¬p.InFb addr) :
    decode p (.fg (.bus kind addr size value)) = .ok (.busFaultUnmapped kind addr size) := by
  rw [decode_bus hw, decodeBus, decodeAddr_unmapped hu hf]

theorem decode_badWidth (h : p.Legal) (hin : p.InUart addr ∨ p.InFb addr) (hsize : size ≠ 1) :
    decode p (.fg (.bus kind addr size value)) = .ok (.busFaultWidth kind addr size) := by
  rw [decode_bus (h.addr_lt hin), decodeBus]
  rcases hin with hu | hf
  · rw [decodeAddr_uart hu]; exact congrArg _ (if_pos hsize)
  · rw [decodeAddr_fb (h.disjoint hf) hf]; exact congrArg _ (if_pos hsize)

theorem decode_outOfRange (h : p.Legal) (hf : p.InFb addr) (ho : p.fbLen ≤ addr - p.fbBase) :
    decode p (.fg (.bus kind addr 1 value)) = .ok (.busFaultRange kind addr 1 (addr - p.fbBase)) := by
  rw [decode_bus (h.addr_lt (.inr hf)), decodeBus, decodeAddr_fb (h.disjoint hf) hf]
  exact congrArg _ (if_pos ho)

theorem decode_fetch (h : p.Legal) (hin : p.InUart addr ∨ p.InFb addr) :
    decode p (.fg (.fetch addr)) = .ok (.fetchFault addr) := by
  rw [decode, if_neg (Nat.not_le.2 (h.addr_lt hin)), decodeFetch]
  rcases hin with hu | hf
  · rw [decodeAddr_uart hu]
  · rw [decodeAddr_fb (h.disjoint hf) hf]

@[simp] theorem lowByte_mod (value : Nat) : lowByte (value % 256) = lowByte value :=
  BitVec.eq_of_toNat_eq (Nat.mod_mod value 256)

/-- Decoding reads only the low byte of a request's value (R57). -/
theorem decode_bus_mod :
    decode p (.fg (.bus kind addr size (value % 256))) = decode p (.fg (.bus kind addr size value)) := by
  simp only [decode, decodeBus, lowByte_mod]

/-- Decoding ignores the value field of a load (R57, R67). -/
theorem decode_load_value (value' : Nat) :
    decode p (.fg (.bus .load addr size value)) = decode p (.fg (.bus .load addr size value')) := by
  simp only [decode, decodeBus, decodeUart, decodeFb]

end

/-- Settles O23: the two faulting tests of the address and the size, then the row of the window. -/
theorem busRequestsDecodeInTheStatedOrder : Obligations.BusRequestsDecodeInTheStatedOrder := by
  intro p kind addr size value hp hw
  refine ⟨decode_unmapped hw, decode_badWidth hp, ?_, ?_, ?_⟩
  · rintro o hin ho rfl rfl
    have hf : p.InFb (p.fbBase + o) := ⟨Nat.le_add_right _ _, Nat.add_lt_add_left hin _⟩
    simpa only [Nat.add_sub_cancel_left] using
      decode_outOfRange (kind := kind) (value := value) hp hf (by rwa [Nat.add_sub_cancel_left])
  · rintro o ho rfl rfl
    rw [decode_fb hp ho]
    cases kind <;> rfl
  · rintro o ho rfl rfl
    rw [decode_uart hp ho]
    cases kind <;> rfl

end Sys2Proof

namespace Sys2Proof.Machine

/-- Settles O29: a UART offset lies below `UART_SIZE`, the length of the register file (R44). -/
theorem uartOffsetsIndexTheRegisterFile : Obligations.UartOffsetsIndexTheRegisterFile := by
  intro s addr o hs ho
  rw [hs.regsLength]
  obtain ⟨⟨hle, hlt⟩, hd⟩ | ⟨-, -, hd⟩ | ⟨-, -, hd⟩ := decodeAddr_cases s.params addr
  · obtain rfl : addr - s.params.uartBase = o := Region.uart.inj (hd.symm.trans ho)
    omega
  · cases hd.symm.trans ho
  · cases hd.symm.trans ho

/-! ### What a move answers -/

/-- A running block's move runs the operation its key decodes to (R51, R73). -/
theorem act_of_decode {m : Move} {k : Key} {i : Instr} {s : State} (hrun : s.fault = none)
    (hk : moveKey m s = some k) (hi : decode s.params k = .ok i) : act m s = exec i s := by
  have hkey : act m s = runKey k s := by
    cases m with
    | fg r => cases hk; exact whileRunning_of_running _ hrun
    | bg => cases hk; exact whileRunning_of_running _ hrun
    | offer e => cases hk
    | output f => cases hk
  rw [hkey, runKey, hi]

theorem whileRunning_congr {s : State} {body body' : State → Result} (h : body s = body' s) :
    whileRunning s body = whileRunning s body' := by
  cases hf : s.fault with
  | none => rw [whileRunning_of_running _ hf, whileRunning_of_running _ hf, h]
  | some f => rw [whileRunning_of_faulted _ hf, whileRunning_of_faulted _ hf]

/-- Requests that decode alike act alike. -/
theorem act_fg_congr {r r' : Request} {s : State} (h : decode s.params (.fg r) = decode s.params (.fg r')) :
    act (.fg r) s = act (.fg r') s :=
  whileRunning_congr (by simp only [runKey, h])

/-- Settles O30: the two requests decode to the same operation. -/
theorem onlyTheLowByteOfAStoreValueCounts : Obligations.OnlyTheLowByteOfAStoreValueCounts :=
  fun _ _ _ _ => ⟨act_fg_congr decode_bus_mod.symm, act_fg_congr (decode_load_value 0)⟩

/-- Settles O24: each request decodes to its faulting row, and the row only raises its fault. -/
theorem illegalRequestsRaiseTheirFault : Obligations.IllegalRequestsRaiseTheirFault := by
  intro s kind addr size value hs hrun hw
  have runs {r : Request} {i : Instr} (hi : decode s.params (.fg r) = .ok i) : act (.fg r) s = exec i s :=
    act_of_decode hrun rfl hi
  refine ⟨fun hu hf => ?_, fun hin hsize => ?_, ?_, fun hin => ?_⟩
  · rw [runs (decode_unmapped hw hu hf)]; exact whileRunning_of_running _ hrun
  · rw [runs (decode_badWidth hs.legal hin hsize)]; exact whileRunning_of_running _ hrun
  · rintro hf ho rfl
    rw [runs (decode_outOfRange hs.legal hf ho)]; exact whileRunning_of_running _ hrun
  · rw [runs (decode_fetch hs.legal hin)]; exact whileRunning_of_running _ hrun

/-! ### The frame of the loads and of the refresh (R58) -/

/-- What a load or a refresh writes: the RHR load that gets the lock has its effect; every other answer changes at most
the fault and the response. -/
theorem exec_load_next {i : Instr} {s t : State} {o : Nat}
    (hi : i ∈ [Instr.uartLdRhr, .uartLdLcr, .uartLdLsr, .uartLdReg o, .fbLd o, .fbRefresh]) (h : exec i s = .next t) :
    (∃ f r, t = { s with fault := f, resp := r }) ∨
      (i = .uartLdRhr ∧
        t = ((wake s).setReg offLsr (withDrClear (s.reg offLsr))).respond (.rdata (s.reg offRhr))) := by
  simp only [List.mem_cons, List.not_mem_nil, or_false] at hi
  rcases hi with rfl | rfl | rfl | rfl | rfl | rfl
  · obtain ⟨-, ⟨-, ht⟩ | ⟨-, ht⟩⟩ := execUartLdRhr_next h
    · exact .inl ⟨_, _, ht⟩
    · exact .inr ⟨rfl, ht⟩
  · obtain ⟨-, ⟨-, ht⟩ | ⟨-, ht⟩⟩ := execUartLdLcr_next h <;> exact .inl ⟨_, _, ht⟩
  · obtain ⟨-, ⟨-, ht⟩ | ⟨-, ht⟩⟩ := execUartLdLsr_next h <;> exact .inl ⟨_, _, ht⟩
  · obtain ⟨-, -, ⟨-, ht⟩ | ⟨-, ht⟩⟩ := execUartLdReg_next h <;> exact .inl ⟨_, _, ht⟩
  · obtain ⟨-, -, ht⟩ := execFbLd_next h; exact .inl ⟨_, _, ht⟩
  · obtain ⟨-, ht⟩ := execFbRefresh_next h; exact .inl ⟨_, _, ht⟩

/-- Clearing `LSR.DR` keeps every other bit of the LSR (R83). -/
theorem State.getLsbD_setReg_withDrClear (s : State) {n : Nat} (hn : n ≠ 0) :
    ((s.setReg offLsr (withDrClear (s.reg offLsr))).reg 5).getLsbD n = (s.reg 5).getLsbD n := by
  rw [State.reg_setReg]
  split
  · exact getLsbD_withDrClear _ hn
  · rfl

/-- Settles O48: but for the RHR load's wake and its clearing of `DR`, only the fault and the response change. -/
theorem loadAndRefreshFrame : Obligations.LoadAndRefreshFrame := by
  intro i s t o hi h
  obtain ⟨f, r, rfl⟩ | ⟨rfl, rfl⟩ := exec_load_next hi h
  · exact ⟨fun _ => rfl, rfl, rfl, rfl, rfl, rfl, rfl, rfl, rfl, rfl, fun _ _ => rfl, fun _ _ => rfl,
      fun _ => ⟨rfl, rfl⟩⟩
  · exact ⟨wake_fbByte s, wake_fb s, wake_tx s, wake_irq s, wake_poisoned s, wake_cfg s, wake_params s, wake_rxin s,
      wake_txFails s, wake_agenda s, fun k hk => (State.reg_setReg_ne _ _ hk).trans (wake_reg s k),
      fun n hn => by simpa using State.getLsbD_setReg_withDrClear (wake s) hn, fun hne => absurd rfl hne⟩

/-! ### The agenda: no move reads it, and a step takes its head (R60) -/

/-- The answer `r`, with the agenda of its next state replaced by `a`. -/
def withAgenda (a : List Move) (r : Result) : Result :=
  match r with
  | .next t => .next (t.setAgenda a)
  | .fault f => .fault f
  | .refused x => .refused x

/-- The answer of `f` does not depend on the agenda, which its next state keeps. -/
def AgendaBlind (f : State → Result) : Prop :=
  ∀ (s : State) (a : List Move), f (s.setAgenda a) = withAgenda a (f s)

namespace AgendaBlind
variable {f g : State → Result}

protected theorem whileRunning (h : AgendaBlind f) : AgendaBlind fun s => whileRunning s f := by
  intro s a
  beta_reduce
  cases hf : s.fault with
  | none => rw [whileRunning_of_running _ hf, ← h, whileRunning_of_running (s := s.setAgenda a) _ hf]
  | some x => rw [whileRunning_of_faulted _ hf, whileRunning_of_faulted (s := s.setAgenda a) _ hf]; rfl

protected theorem atomicL {op : LockOp} (h : AgendaBlind f) : AgendaBlind fun s => atomicL op s f := by
  intro s a
  beta_reduce
  cases hp : s.poisoned with
  | false => rw [atomicL_of_free _ hp, ← h, atomicL_of_free (s := s.setAgenda a) _ hp]
  | true => rw [atomicL_of_poisoned _ hp, atomicL_of_poisoned (s := s.setAgenda a) _ hp]; rfl

/-- A choice between two such answers by a test that does not read the agenda. -/
protected theorem ite {c : State → Prop} [∀ s, Decidable (c s)] (hc : ∀ s a, c (s.setAgenda a) = c s)
    (hf : AgendaBlind f) (hg : AgendaBlind g) : AgendaBlind fun s => if c s then f s else g s := by
  intro s a
  simp only [hc, hf s a, hg s a, apply_ite (withAgenda a)]

end AgendaBlind

theorem wake_setAgenda (s : State) (a : List Move) : wake (s.setAgenda a) = (wake s).setAgenda a := by
  rw [wake_eq, wake_eq]; rfl

theorem failFlush_agendaBlind (v : Byte) : AgendaBlind (failFlush v) := by
  intro s a
  cases hk : Config.failedFlushKeepsByte s.draws <;> simp [failFlush, hk] <;> rfl

/-- No operation reads the agenda. -/
theorem exec_agendaBlind (i : Instr) : AgendaBlind (exec i) := by
  cases i with
  | fetchFault | busFaultUnmapped | busFaultWidth | busFaultRange | irqPoll | fbRefresh =>
    exact .whileRunning fun _ _ => rfl
  | uartLdLcr | uartLdLsr | uartStLcr | uartStLsr => exact .whileRunning (.atomicL fun _ _ => rfl)
  | uartLdReg | uartStReg =>
    exact .whileRunning (.ite (fun _ _ => rfl) (.atomicL fun _ _ => rfl) fun _ _ => rfl)
  | uartLdRhr => exact .whileRunning (.atomicL fun s a => by simp only [wake_setAgenda]; rfl)
  | uartStThr v =>
    exact .whileRunning (.atomicL (.ite (fun _ _ => rfl) (failFlush_agendaBlind v) fun _ _ => rfl))
  | fbLd | fbSt | rxReadByte | rxReadErr | rxReadEnd | rxSpurious =>
    exact .whileRunning (.ite (fun _ _ => rfl) (fun _ _ => rfl) fun _ _ => rfl)
  | rxCheck =>
    exact .whileRunning (.ite (fun _ _ => rfl)
      (.atomicL (.ite (fun _ _ => rfl) (fun _ _ => rfl) fun _ _ => rfl)) fun _ _ => rfl)

theorem runKey_agendaBlind (k : Key) : AgendaBlind (runKey k) := by
  intro s a
  unfold runKey
  rw [State.setAgenda_params]
  cases decode s.params k with
  | ok i => exact exec_agendaBlind i s a
  | error r => cases r <;> rfl

/-- No agent's step reads the agenda. -/
theorem act_agendaBlind (m : Move) : AgendaBlind (act m) := by
  cases m with
  | fg r => exact .whileRunning (runKey_agendaBlind _)
  | bg => exact .whileRunning fun s a => runKey_agendaBlind (producerKey s) s a
  | offer | output => exact .whileRunning fun _ _ => rfl

theorem moveKey_setAgenda (m : Move) (s : State) (a : List Move) : moveKey m (s.setAgenda a) = moveKey m s := by
  cases m <;> rfl

/-- A step takes the head of the agenda off and makes that move. -/
theorem step_of_cons {s : State} {m : Move} {rest : List Move} (h : s.agenda = m :: rest) :
    step s = act m (s.setAgenda rest) := by
  cases hf : s.fault with
  | none => rw [step, whileRunning_of_running _ hf, nextMove, h]
  | some f => rw [step, whileRunning_of_faulted _ hf, act, whileRunning_of_faulted (s := s.setAgenda rest) _ hf]

theorem step_of_nil {s : State} (hrun : s.fault = none) (h : s.agenda = []) : step s = hold s := by
  rw [step, whileRunning_of_running _ hrun, nextMove, h]

/-- A run of moves makes the first and goes on from the state it left. -/
theorem runMoves_cons_next {m : Move} {ms : List Move} {s t : State} (h : runMoves (m :: ms) s = .next t) :
    ∃ u, act m s = .next u ∧ runMoves ms u = .next t := by
  rw [runMoves] at h
  split at h
  · next u hu => exact ⟨u, hu, h⟩
  · cases h
  · cases h

theorem core_run_succ {k : Nat} {s u : State} (h : step s = .next u) :
    Host.Core.run Sys2Proof.core (k + 1) s = Host.Core.run Sys2Proof.core k u := by
  have hcore : Sys2Proof.core.step s = .next u := h
  simp only [Host.Core.run, hcore]

/-- Settles O36, by the equation of `step` on each agenda. -/
theorem stepRunsTheDecodedOperation : Obligations.StepRunsTheDecodedOperation := by
  intro s hrun
  refine ⟨fun m rest k i ha hk hi => ?_, fun e rest ha => ?_, fun f rest ha => ?_, step_of_nil hrun⟩
  · rw [step_of_cons ha]
    exact act_of_decode hrun ((moveKey_setAgenda m s rest).trans hk) hi
  · rw [step_of_cons ha]; exact whileRunning_of_running _ hrun
  · rw [step_of_cons ha]; exact whileRunning_of_running _ hrun

/-- Settles O37, by induction on the moves: each step makes the move at the head, whose answer is the same under any
agenda. -/
theorem runsFollowTheAgenda : Obligations.RunsFollowTheAgenda := by
  intro ms rest s t h
  induction ms generalizing s with
  | nil => cases h; rfl
  | cons m ms ih =>
    obtain ⟨u, hu, hrest⟩ := runMoves_cons_next h
    have hstep : step (s.setAgenda (m :: (ms ++ rest))) = .next (u.setAgenda (ms ++ rest)) := calc
      step (s.setAgenda (m :: (ms ++ rest))) = act m (s.setAgenda (ms ++ rest)) := step_of_cons rfl
      _ = withAgenda (ms ++ rest) (act m s) := act_agendaBlind m s _
      _ = .next (u.setAgenda (ms ++ rest)) := by rw [hu]; rfl
    exact (core_run_succ hstep).trans (ih u hrest)

end Sys2Proof.Machine
end

section
/-! SUPPORT. The operation map (spec/30_encoding.md): the encoder inverts the decoder, the operands that decoding
assembles are in their rows, and which keys select an operation. -/

namespace Sys2Proof

/-! ### One-byte requests written by the encoder (R81) -/

section
variable {p : Params} {o : Nat} {v : Byte}

theorem decode_uartLoadKey (h : p.Legal) (ho : o < p.uartSize) :
    decode p (uartLoadKey p o) = .ok (decodeUart .load o 0) :=
  decode_uart h ho .load 0

theorem decode_uartStoreKey (h : p.Legal) (ho : o < p.uartSize) :
    decode p (uartStoreKey p o v) = .ok (decodeUart .store o v) := by
  rw [uartStoreKey, decode_uart h ho, lowByte_toNat]

/-- The plain offsets are those with no row of their own. -/
theorem Params.PlainOffset.ne (ho : p.PlainOffset o) : o ≠ 0 ∧ o ≠ 3 ∧ o ≠ 5 := by
  simp only [Params.PlainOffset] at ho; omega

theorem decodeUart_load_plain (ho : p.PlainOffset o) : decodeUart .load o v = .uartLdReg o := by
  obtain ⟨h0, h3, h5⟩ := ho.ne
  rw [decodeUart, if_neg h0, if_neg h3, if_neg h5]

theorem decodeUart_store_plain (ho : p.PlainOffset o) : decodeUart .store o v = .uartStReg o v := by
  obtain ⟨h0, h3, h5⟩ := ho.ne
  rw [decodeUart, if_neg h0, if_neg h3, if_neg h5]

end

/-- Settles O33, row by row of the operation map: what `wellFormed` says of the operands is what the row of R75 asks of
the key. -/
theorem decodingAnEncodedOperationGivesItBack : Obligations.DecodingAnEncodedOperationGivesItBack := by
  intro p i hp hw
  have uart {o : Nat} (ho : o < 6) : o < p.uartSize := Nat.lt_of_lt_of_le ho hp.1
  cases i with
  | fetchFault addr =>
    obtain ⟨-, hin⟩ := of_decide_eq_true hw
    exact decode_fetch hp hin
  | busFaultUnmapped kind addr size =>
    obtain ⟨hlt, hu, hf⟩ := of_decide_eq_true hw
    exact decode_unmapped hlt hu hf
  | busFaultWidth kind addr size =>
    obtain ⟨-, hin, hsize⟩ := of_decide_eq_true hw
    exact decode_badWidth hp hin hsize
  | busFaultRange kind addr size offset =>
    obtain ⟨hf, rfl, rfl, ho⟩ := of_decide_eq_true hw
    have hsub : p.fbBase + offset - p.fbBase = offset := Nat.add_sub_cancel_left ..
    rw [encode, decode_outOfRange hp hf (hsub.symm ▸ ho), hsub]
  | uartLdRhr => exact decode_uartLoadKey hp (uart (by decide))
  | uartLdLcr => exact decode_uartLoadKey hp (uart (by decide))
  | uartLdLsr => exact decode_uartLoadKey hp (uart (by decide))
  | uartLdReg offset =>
    have ho : p.PlainOffset offset := of_decide_eq_true hw
    rw [encode, decode_uartLoadKey hp (hp.plainOffset_lt ho), decodeUart_load_plain ho]
  | uartStThr v => exact decode_uartStoreKey hp (uart (by decide))
  | uartStLcr v => exact decode_uartStoreKey hp (uart (by decide))
  | uartStLsr v => exact decode_uartStoreKey hp (uart (by decide))
  | uartStReg offset v =>
    have ho : p.PlainOffset offset := of_decide_eq_true hw
    rw [encode, decode_uartStoreKey hp (hp.plainOffset_lt ho), decodeUart_store_plain ho]
  | fbLd offset => exact decode_fb hp (of_decide_eq_true hw) .load 0
  | fbSt offset v =>
    rw [encode, decode_fb hp (of_decide_eq_true hw), lowByte_toNat, decodeFb]
  | irqPoll | rxReadByte | rxReadErr | rxReadEnd | rxCheck | fbRefresh => rfl
  | rxSpurious b => exact if_pos hw

/-! ### What each port's decoder accepts, and what it then gives (R75, R76) -/

section
variable {p : Params} {addr size value o : Nat} {kind : AccessKind} {v : Byte} {i : Instr}

/-- A BUS key selects an operation exactly when its address has `ADDR_W` bits (R45). -/
theorem decode_bus_ok_iff :
    decode p (.fg (.bus kind addr size value)) = .ok i ↔
      addr < 2 ^ p.addrW ∧ decodeBus p kind addr size value = i := by
  by_cases hlt : addr < 2 ^ p.addrW
  · simp [decode_bus hlt, hlt]
  · simp [decode, hlt, Nat.le_of_not_lt hlt]

/-- A FETCH key selects an operation exactly at an address of a window (R64, R75 row 1). -/
theorem decode_fetch_ok_iff :
    decode p (.fg (.fetch addr)) = .ok i ↔
      addr < 2 ^ p.addrW ∧ (p.InUart addr ∨ p.InFb addr) ∧ .fetchFault addr = i := by
  by_cases hlt : addr < 2 ^ p.addrW
  · rw [decode, if_neg (Nat.not_le.2 hlt), decodeFetch, and_iff_right hlt]
    obtain ⟨hu, hd⟩ | ⟨-, hf, hd⟩ | ⟨hu, hf, hd⟩ := decodeAddr_cases p addr
    · rw [hd, and_iff_right (.inl hu), Except.ok.injEq]
    · rw [hd, and_iff_right (.inr hf), Except.ok.injEq]
    · rw [hd]
      exact iff_of_false nofun fun ⟨hin, _⟩ => hin.elim hu hf
  · simp [decode, hlt, Nat.le_of_not_lt hlt]

/-- A producer key selects an operation exactly when it pairs a state with the event that state takes (R73, R96). -/
theorem decodeRx_ok_iff_wellFormed (p : Params) (r : Rx) (e : Option InEvent) (sp : Bool) :
    (∃ i, decodeRx r e sp = .ok i) ↔ (Key.rx r e sp).wellFormed p = true := by
  cases r with
  | reading =>
    cases e with
    | none => simp [decodeRx, Key.wellFormed]
    | some ev => cases ev <;> simp [decodeRx, Key.wellFormed]
  | got | woken => cases e <;> simp [decodeRx, Key.wellFormed]
  | waiting => cases e <;> cases sp <;> simp [decodeRx, Key.wellFormed]

theorem decodeUart_wellFormed (ho : o < p.uartSize) : (decodeUart kind o v).wellFormed p = true := by
  obtain rfl | rfl | rfl | hplain : o = 0 ∨ o = 3 ∨ o = 5 ∨ p.PlainOffset o := by
    simp only [Params.PlainOffset]; omega
  · cases kind <;> rfl
  · cases kind <;> rfl
  · cases kind <;> rfl
  · cases kind with
    | load => rw [decodeUart_load_plain hplain]; exact decide_eq_true hplain
    | store => rw [decodeUart_store_plain hplain]; exact decide_eq_true hplain

theorem decodeFb_wellFormed (ho : o < p.fbLen) : (decodeFb kind o v).wellFormed p = true := by
  cases kind <;> exact decide_eq_true ho

/-- The order of R76, window by window: each test that fails leaves its row's condition on the address, the size or
the offset. -/
theorem decodeBus_wellFormed (hlt : addr < 2 ^ p.addrW) : (decodeBus p kind addr size value).wellFormed p = true := by
  obtain ⟨hu, hd⟩ | ⟨-, hf, hd⟩ | ⟨hu, hf, hd⟩ := decodeAddr_cases p addr
  · simp only [decodeBus, hd]
    split
    · next hsize => exact decide_eq_true ⟨hlt, .inl hu, hsize⟩
    · exact decodeUart_wellFormed (Nat.sub_lt_left_of_lt_add hu.1 hu.2)
  · simp only [decodeBus, hd]
    split
    · next hsize => exact decide_eq_true ⟨hlt, .inr hf, hsize⟩
    · next hsize =>
      split
      · next ho => exact decide_eq_true ⟨hf, not_not.1 hsize, (Nat.add_sub_cancel' hf.1).symm, ho⟩
      · next ho => exact decodeFb_wellFormed (Nat.lt_of_not_le ho)
  · simp only [decodeBus, hd]
    exact decide_eq_true ⟨hlt, hu, hf⟩

/-- Under the configuration's own switch the producer's rows ask nothing of their byte (R75 rows 16 to 20). -/
theorem decodeRx_wellFormed {r : Rx} {e : Option InEvent} (h : decodeRx r e p.spuriousWake = .ok i) :
    i.wellFormed p = true := by
  cases r with
  | reading =>
    cases e with
    | none => cases h
    | some ev => cases ev <;> cases h <;> rfl
  | got | woken =>
    cases e with
    | none => cases h; rfl
    | some ev => cases h
  | waiting b =>
    cases e with
    | none =>
      cases hsp : p.spuriousWake with
      | true => rw [hsp] at h; cases h; exact hsp
      | false => rw [hsp] at h; cases h
    | some ev => cases h

end

/-- Settles O34, port by port. -/
theorem decodedOperationsAreWellFormed : Obligations.DecodedOperationsAreWellFormed := by
  intro p k i _ hsp h
  match k with
  | .fg (.bus kind addr size value) =>
    obtain ⟨hlt, rfl⟩ := decode_bus_ok_iff.1 h
    exact decodeBus_wellFormed hlt
  | .fg (.fetch addr) =>
    obtain ⟨hlt, hin, rfl⟩ := decode_fetch_ok_iff.1 h
    exact decide_eq_true ⟨hlt, hin⟩
  | .fg .poll => cases h; rfl
  | .fg .refresh => cases h; rfl
  | .rx r e sp =>
    obtain rfl := hsp r e sp rfl
    exact decodeRx_wellFormed h

/-- Settles O35, port by port. -/
theorem exactlyThePresentableKeysSelectAnOperation : Obligations.ExactlyThePresentableKeysSelectAnOperation := by
  intro p k _
  match k with
  | .fg (.bus kind addr size value) => simp [decode_bus_ok_iff, Key.wellFormed]
  | .fg (.fetch addr) => simp [decode_fetch_ok_iff, Key.wellFormed]
  | .fg .poll => exact iff_of_true ⟨_, rfl⟩ rfl
  | .fg .refresh => exact iff_of_true ⟨_, rfl⟩ rfl
  | .rx r e sp => exact decodeRx_ok_iff_wellFormed p r e sp

/-- Settles O32: each key is decoded by evaluating the operation map under the one configuration. -/
theorem sampleKeysSelectTheirRows : Obligations.SampleKeysSelectTheirRows := by
  rintro p rfl
  exact ⟨rfl, rfl, rfl, rfl, rfl, rfl, rfl, rfl, rfl, rfl, rfl, rfl, rfl⟩

end Sys2Proof

namespace Sys2Proof.Machine

/-- Settles O31: each of the four meanings tests its offset operand before it reads or writes anything. -/
theorem operandsOutsideTheirRowAreRefused : Obligations.OperandsOutsideTheirRowAreRefused := by
  intro s o v hrun
  refine ⟨fun ho => ?_, fun ho => ?_⟩
  · have hplain : ¬plainOffset s.params o = true := mt (plainOffset_iff s.params o).1 ho
    exact ⟨by rw [exec, execUartLdReg, whileRunning_of_running _ hrun, if_neg hplain],
      by rw [exec, execUartStReg, whileRunning_of_running _ hrun, if_neg hplain]⟩
  · have hpixel : ¬pixelOffsetOk s.params o = true := mt (pixelOffsetOk_iff s.params o).1 (Nat.not_lt.2 ho)
    exact ⟨by rw [exec, execFbLd, whileRunning_of_running _ hrun, if_neg hpixel],
      by rw [exec, execFbSt, whileRunning_of_running _ hrun, if_neg hpixel]⟩

end Sys2Proof.Machine
end

section
/-! SUPPORT. The UART register file (spec/40_uart_registers.md): what each load and store answers while the lock is free
and while it is poisoned, the same by offset for the moves of a run, and the laws of R91 that follow. -/

namespace Sys2Proof.Machine

section
variable {s t : State} {o : Nat} {v b : Byte} {op : LockOp}

/-! ### The raw loads and stores (R84 to R86, R88 to R90) -/

theorem loadRaw_of_free (hfree : s.poisoned = false) : loadRaw op o s = .next (s.respond (.rdata (s.reg o))) :=
  atomicL_of_free _ hfree

theorem loadRaw_of_poisoned (hp : s.poisoned = true) : loadRaw op o s = raise (.lockPoisoned op) s :=
  atomicL_of_poisoned _ hp

theorem storeRaw_of_free (hfree : s.poisoned = false) : storeRaw op o v s = .next ((s.setReg o v).respond .ack) :=
  atomicL_of_free _ hfree

theorem storeRaw_of_poisoned (hp : s.poisoned = true) : storeRaw op o v s = raise (.lockPoisoned op) s :=
  atomicL_of_poisoned _ hp

theorem exec_uartLdLcr (hrun : s.fault = none) : exec .uartLdLcr s = loadRaw .uartLdLcr offLcr s :=
  whileRunning_of_running _ hrun

theorem exec_uartLdLsr (hrun : s.fault = none) : exec .uartLdLsr s = loadRaw .uartLdLsr offLsr s :=
  whileRunning_of_running _ hrun

theorem exec_uartLdReg (hrun : s.fault = none) (ho : s.params.PlainOffset o) :
    exec (.uartLdReg o) s = loadRaw .uartLdReg o s := by
  rw [exec, execUartLdReg, whileRunning_of_running _ hrun, if_pos ((plainOffset_iff _ _).2 ho)]

theorem exec_uartStLcr (hrun : s.fault = none) : exec (.uartStLcr v) s = storeRaw .uartStLcr offLcr v s :=
  whileRunning_of_running _ hrun

theorem exec_uartStLsr (hrun : s.fault = none) : exec (.uartStLsr v) s = storeRaw .uartStLsr offLsr v s :=
  whileRunning_of_running _ hrun

theorem exec_uartStReg (hrun : s.fault = none) (ho : s.params.PlainOffset o) :
    exec (.uartStReg o v) s = storeRaw .uartStReg o v s := by
  rw [exec, execUartStReg, whileRunning_of_running _ hrun, if_pos ((plainOffset_iff _ _).2 ho)]

/-- Every raw store that gets the lock writes its byte, whole, and acknowledges. -/
theorem RawStore.exec_of_ready {i : Instr} (h : RawStore s.params i o v) (hready : s.Ready) :
    exec i s = .next ((s.setReg o v).respond .ack) := by
  obtain ⟨hrun, hfree⟩ := hready
  cases h with
  | lcr => exact (exec_uartStLcr hrun).trans (storeRaw_of_free hfree)
  | lsr => exact (exec_uartStLsr hrun).trans (storeRaw_of_free hfree)
  | plain _ _ ho => exact (exec_uartStReg hrun ho).trans (storeRaw_of_free hfree)

/-- A raw store is to an offset of the register file. -/
theorem RawStore.offset_lt {p : Params} {i : Instr} (h : RawStore p i o v) (hp : p.Legal) : o < p.uartSize := by
  have hsize : 6 ≤ p.uartSize := hp.1
  cases h with
  | lcr => exact Nat.lt_of_lt_of_le (by decide) hsize
  | lsr => exact Nat.lt_of_lt_of_le (by decide) hsize
  | plain _ _ ho => exact hp.plainOffset_lt ho

/-! ### The RHR load (R83) -/

theorem wake_of_waiting (h : s.rx = .waiting b) : wake s = s.setRx (.woken b) := by rw [wake, h]

theorem wake_of_not_waiting (h : ∀ b, s.rx ≠ .waiting b) : wake s = s := by
  obtain ⟨b, hb, -⟩ | ⟨-, hw⟩ := wake_cases s
  · exact absurd hb (h b)
  · exact hw

theorem wake_rx_ne_waiting (s : State) (b : Byte) : (wake s).rx ≠ .waiting b := by
  obtain ⟨c, -, hw⟩ | ⟨hne, hw⟩ := wake_cases s
  · rw [hw]; exact Rx.noConfusion
  · rw [hw]; exact hne b

/-- What the RHR load leaves when it gets the lock. -/
def rhrLoaded (s : State) : State :=
  ((wake s).setReg offLsr (withDrClear (s.reg offLsr))).respond (.rdata (s.reg offRhr))

theorem exec_uartLdRhr_of_ready (hready : s.Ready) : exec .uartLdRhr s = .next (rhrLoaded s) := by
  obtain ⟨hrun, hfree⟩ := hready
  rw [exec, execUartLdRhr, whileRunning_of_running _ hrun, atomicL_of_free _ hfree]
  simp only [rhrLoaded, wake_reg, State.reg_setReg_ne _ _ (by decide : offRhr ≠ offLsr)]

theorem exec_uartLdRhr_of_poisoned (hrun : s.fault = none) (hp : s.poisoned = true) :
    exec .uartLdRhr s = raise (.lockPoisoned .uartLdRhr) s := by
  rw [exec, execUartLdRhr, whileRunning_of_running _ hrun, atomicL_of_poisoned _ hp]

theorem reg_rhr_rhrLoaded (s : State) : (rhrLoaded s).reg offRhr = s.reg offRhr :=
  (State.reg_setReg_ne (wake s) _ (by decide : offRhr ≠ offLsr)).trans (wake_reg s offRhr)

theorem reg_lsr_rhrLoaded (h : offLsr < s.regs.length) : (rhrLoaded s).reg offLsr = withDrClear (s.reg offLsr) :=
  State.reg_setReg_self (wake s) _ (by rwa [wake_regs])

theorem wake_rhrLoaded (s : State) : wake (rhrLoaded s) = rhrLoaded s :=
  wake_of_not_waiting (wake_rx_ne_waiting s)

theorem rhrLoaded_ready (hready : s.Ready) : (rhrLoaded s).Ready :=
  ⟨(wake_fault s).trans hready.1, (wake_poisoned s).trans hready.2⟩

theorem withDrClear_withDrClear (l : Byte) : withDrClear (withDrClear l) = withDrClear l := by
  rw [withDrClear, withDrClear, BitVec.and_assoc, BitVec.and_self]

/-- A second RHR load finds the producer awake and `LSR.DR` clear, so it changes nothing. -/
theorem rhrLoaded_rhrLoaded (h : offLsr < s.regs.length) : rhrLoaded (rhrLoaded s) = rhrLoaded s := calc
  rhrLoaded (rhrLoaded s)
      = ((rhrLoaded s).setReg offLsr (withDrClear (s.reg offLsr))).respond (.rdata (s.reg offRhr)) := by
    rw [rhrLoaded, wake_rhrLoaded, reg_lsr_rhrLoaded h, reg_rhr_rhrLoaded, withDrClear_withDrClear]
  _ = rhrLoaded s := by simp only [rhrLoaded, State.setReg, State.respond, List.set_set]

/-! ### The THR store (R87) -/

theorem exec_uartStThr_of_ready (hready : s.Ready) (hout : s.txFails = false) :
    exec (.uartStThr v) s = .next ((s.pushTx v).respond .ack) := by
  obtain ⟨hrun, hfree⟩ := hready
  rw [exec, execUartStThr, whileRunning_of_running _ hrun, atomicL_of_free _ hfree, if_neg (by simp [hout])]

theorem exec_uartStThr_of_poisoned (hrun : s.fault = none) (hp : s.poisoned = true) :
    exec (.uartStThr v) s = raise (.lockPoisoned .uartStThr) s := by
  rw [exec, execUartStThr, whileRunning_of_running _ hrun, atomicL_of_poisoned _ hp]

/-! ### The check that delivers (R97) -/

theorem exec_rxCheck_of_empty (hready : s.Ready) (holds : s.rx = .got b ∨ s.rx = .woken b) (hdr : s.dr = false) :
    exec (.rxCheck b) s = .next ((deliver b s).respond .silent) := by
  obtain ⟨hrun, hfree⟩ := hready
  rw [exec, execRxCheck, whileRunning_of_running _ hrun, if_pos holds, atomicL_of_free _ hfree, if_neg (by simp [hdr])]

theorem deliver_reg_rhr (h : offRhr < s.regs.length) : (deliver b s).reg offRhr = b := by
  rw [deliver_reg, State.reg_setReg_ne _ _ (by decide), State.reg_setReg_self _ _ h]

theorem deliver_reg_lsr (h : offLsr < s.regs.length) : (deliver b s).reg offLsr = withDrSet (s.reg offLsr) := by
  rw [deliver_reg, State.reg_setReg_self _ _ (by simpa using h)]

/-! ### The moves of a run, by offset (R75, R81) -/

theorem State.Wf.lsr_lt (hs : s.Wf) : offLsr < s.regs.length := by
  rw [hs.regsLength]; exact hs.legal.1

theorem act_ld_eq_exec (hp : s.params.Legal) (hrun : s.fault = none) (ho : o < s.params.uartSize) :
    act (ld (s.params.uartBase + o)) s = exec (decodeUart .load o 0) s :=
  act_of_decode hrun rfl (decode_uartLoadKey hp ho)

theorem act_st_eq_exec (hp : s.params.Legal) (hrun : s.fault = none) (ho : o < s.params.uartSize) :
    act (st (s.params.uartBase + o) v) s = exec (decodeUart .store o v) s :=
  act_of_decode hrun rfl (decode_uartStoreKey hp ho)

theorem act_ld_rhr (hp : s.params.Legal) (hready : s.Ready) :
    act (ld s.params.uartBase) s = .next (rhrLoaded s) :=
  (act_ld_eq_exec hp hready.1 (Nat.zero_lt_of_lt hp.1)).trans (exec_uartLdRhr_of_ready hready)

theorem act_ld_raw (hp : s.params.Legal) (hready : s.Ready) (h0 : o ≠ 0) (ho : o < s.params.uartSize) :
    act (ld (s.params.uartBase + o)) s = .next (s.respond (.rdata (s.reg o))) := by
  rw [act_ld_eq_exec hp hready.1 ho]
  by_cases h3 : o = 3
  · subst h3; exact (exec_uartLdLcr hready.1).trans (loadRaw_of_free hready.2)
  by_cases h5 : o = 5
  · subst h5; exact (exec_uartLdLsr hready.1).trans (loadRaw_of_free hready.2)
  have hplain := plainOffset_of_lt ho h0 h3 h5
  rw [decodeUart_load_plain hplain]
  exact (exec_uartLdReg hready.1 hplain).trans (loadRaw_of_free hready.2)

theorem act_st_thr (hp : s.params.Legal) (hready : s.Ready) (hout : s.txFails = false) :
    act (st s.params.uartBase v) s = .next ((s.pushTx v).respond .ack) :=
  (act_st_eq_exec hp hready.1 (Nat.zero_lt_of_lt hp.1)).trans (exec_uartStThr_of_ready hready hout)

/-- A store at any UART offset but 0 selects the raw store of that offset. -/
theorem rawStore_decodeUart {p : Params} (h0 : o ≠ 0) (ho : o < p.uartSize) :
    RawStore p (decodeUart .store o v) o v := by
  by_cases h3 : o = 3
  · subst h3; exact .lcr v
  by_cases h5 : o = 5
  · subst h5; exact .lsr v
  have hplain := plainOffset_of_lt ho h0 h3 h5
  rw [decodeUart_store_plain hplain]
  exact .plain o v hplain

theorem act_st_raw (hp : s.params.Legal) (hready : s.Ready) (h0 : o ≠ 0) (ho : o < s.params.uartSize) :
    act (st (s.params.uartBase + o) v) s = .next ((s.setReg o v).respond .ack) :=
  (act_st_eq_exec hp hready.1 ho).trans ((rawStore_decodeUart h0 ho).exec_of_ready hready)

/-- The move of a producer in `Got` or `Woken` is the check (R75 row 19). -/
theorem act_bg_of_holds (hrun : s.fault = none) (holds : s.rx = .got b ∨ s.rx = .woken b) :
    act .bg s = exec (.rxCheck b) s := by
  refine act_of_decode hrun rfl ?_
  obtain h | h := holds
  · rw [producerKey, h]; rfl
  · rw [producerKey, h]; rfl

theorem act_bg_delivers (hready : s.Ready) (holds : s.rx = .got b ∨ s.rx = .woken b) (hdr : s.dr = false) :
    act .bg s = .next ((deliver b s).respond .silent) :=
  (act_bg_of_holds hready.1 holds).trans (exec_rxCheck_of_empty hready holds hdr)

theorem runMoves_cons {m : Move} {ms : List Move} (h : act m s = .next t) : runMoves (m :: ms) s = runMoves ms t := by
  rw [runMoves, h]

/-- What a store of `v` at UART offset `o` leaves while the output works. -/
def uartStored (o : Nat) (v : Byte) (s : State) : State :=
  if o = 0 then (s.pushTx v).respond .ack else (s.setReg o v).respond .ack

theorem act_st (hp : s.params.Legal) (hready : s.Ready) (hout : s.txFails = false) (ho : o < s.params.uartSize) :
    act (st (s.params.uartBase + o) v) s = .next (uartStored o v s) := by
  by_cases h0 : o = 0
  · subst h0; exact act_st_thr hp hready hout
  · rw [uartStored, if_neg h0]; exact act_st_raw hp hready h0 ho

/-- A store leaves the components that decide what the next store answers as they were. -/
theorem uartStored_keeps (o : Nat) (v : Byte) (s : State) :
    (uartStored o v s).params = s.params ∧ (uartStored o v s).fault = s.fault ∧
      (uartStored o v s).poisoned = s.poisoned ∧ (uartStored o v s).txFails = s.txFails := by
  by_cases h0 : o = 0
  · rw [uartStored, if_pos h0]; exact ⟨rfl, rfl, rfl, rfl⟩
  · rw [uartStored, if_neg h0]; exact ⟨rfl, rfl, rfl, rfl⟩

/-- Stores at distinct offsets write distinct register bytes, or one of them writes only `TX`. -/
theorem uartStored_comm {o o' : Nat} (v v' : Byte) (s : State) (hne : o ≠ o') :
    uartStored o' v' (uartStored o v s) = uartStored o v (uartStored o' v' s) := by
  by_cases h0 : o = 0
  · have h0' : o' ≠ 0 := fun h => hne (h0.trans h.symm)
    simp only [uartStored, if_pos h0, if_neg h0']; rfl
  by_cases h0' : o' = 0
  · simp only [uartStored, if_neg h0, if_pos h0']; rfl
  · simp only [uartStored, if_neg h0, if_neg h0', State.setReg, State.respond, List.set_comm v v' hne]

theorem runMoves_st_st {o' : Nat} {v' : Byte} (hp : s.params.Legal) (hready : s.Ready) (hout : s.txFails = false)
    (ho : o < s.params.uartSize) (ho' : o' < s.params.uartSize) :
    runMoves [st (s.params.uartBase + o) v, st (s.params.uartBase + o') v'] s =
      .next (uartStored o' v' (uartStored o v s)) := by
  obtain ⟨hparams, hfault, hpoisoned, htx⟩ := uartStored_keeps o v s
  rw [runMoves_cons (act_st hp hready hout ho), ← hparams]
  exact runMoves_cons (act_st (hparams ▸ hp) ⟨hfault.trans hready.1, hpoisoned.trans hready.2⟩ (htx.trans hout)
    (hparams ▸ ho'))

end

/-! ### The statements -/

/-- Settles O9: the byte stored is in the register file of a well-formed state, so it reads back. -/
theorem rawRegisterStoresChangeOneByte : Obligations.RawRegisterStoresChangeOneByte := by
  intro s t i o v hs hfree hi h
  have hraw : RawStore s.params i o v := by
    obtain ⟨rfl, rfl⟩ | ⟨rfl, rfl⟩ | rfl := hi
    · exact .lcr v
    · exact .lsr v
    · obtain ⟨-, ho, -⟩ := execUartStReg_next h
      exact .plain o v ho
  obtain rfl : (s.setReg o v).respond .ack = t :=
    Host.Outcome.next.inj ((hraw.exec_of_ready ⟨exec_next_running h, hfree⟩).symm.trans h)
  have ho : o < s.regs.length := hs.regsLength ▸ hraw.offset_lt hs.legal
  exact ⟨State.reg_setReg_self s v ho, fun _ => State.reg_setReg_ne s v, fun _ => rfl, rfl⟩

/-- Settles O49: a raw store, then a raw load of the byte it wrote. -/
theorem uartStoreThenLoadReturnsTheByte : Obligations.UartStoreThenLoadReturnsTheByte := by
  intro s o v hs hready h0 ho
  have hback : (s.setReg o v).reg o = v := State.reg_setReg_self s v (by rwa [hs.regsLength])
  rw [runMoves_cons (act_st_raw hs.legal hready h0 ho)]
  refine (runMoves_cons (act_ld_raw (s := (s.setReg o v).respond .ack) hs.legal hready h0 ho)).trans ?_
  rw [State.reg_respond, hback]
  rfl

/-- Settles O50: the store leaves `LSR.DR` clear, so the producer's check delivers, and the load sees `DR` set. -/
theorem deliveryBetweenLsrStoreAndLoadShowsDr : Obligations.DeliveryBetweenLsrStoreAndLoadShowsDr := by
  intro s v b hs hready holds hv
  have hlsr : (s.setReg offLsr v).reg offLsr = v := State.reg_setReg_self s v hs.lsr_lt
  have hempty : (s.setReg offLsr v).dr = false := (congrArg flagDr hlsr).trans hv
  have hlen : offLsr < (s.setReg offLsr v).regs.length := by simpa using hs.lsr_lt
  have hstore : act (st (s.params.uartBase + 5) v) s = .next ((s.setReg offLsr v).respond .ack) :=
    act_st_raw hs.legal hready (by decide) hs.legal.1
  have hcheck : act .bg ((s.setReg offLsr v).respond .ack) =
      .next ((deliver b ((s.setReg offLsr v).respond .ack)).respond .silent) :=
    act_bg_delivers (s := (s.setReg offLsr v).respond .ack) hready holds hempty
  rw [runMoves_cons hstore, runMoves_cons hcheck]
  refine ⟨_, runMoves_cons (act_ld_raw (o := 5) hs.legal hready (by decide) hs.legal.1), ?_,
    deliver_reg_rhr (Nat.zero_lt_of_lt hlen), rfl⟩
  exact congrArg Response.rdata ((deliver_reg_lsr hlen).trans (congrArg withDrSet hlsr))

/-- Settles O51: the store writes only `TX`, and the RHR load reads the receive-holding byte. -/
theorem offsetZeroIsNotARoundTrip : Obligations.OffsetZeroIsNotARoundTrip := by
  intro s v hs hready hout
  rw [runMoves_cons (act_st_thr hs.legal hready hout)]
  exact ⟨_, runMoves_cons (act_ld_rhr (s := (s.pushTx v).respond .ack) hs.legal hready), rfl,
    wake_tx _, reg_rhr_rhrLoaded _⟩

/-- Settles O52: a raw load writes only the response, and the RHR load is idempotent. -/
theorem repeatedUartLoadsReturnTheSameByte : Obligations.RepeatedUartLoadsReturnTheSameByte := by
  intro s o hs hready ho
  by_cases h0 : o = 0
  · subst h0
    have hfirst : act (ld s.params.uartBase) s = .next (rhrLoaded s) := act_ld_rhr hs.legal hready
    have hparams : (rhrLoaded s).params = s.params := wake_params s
    have hsecond : act (ld s.params.uartBase) (rhrLoaded s) = .next (rhrLoaded s) := by
      have h := act_ld_rhr (hparams ▸ hs.legal) (rhrLoaded_ready hready)
      rwa [hparams, rhrLoaded_rhrLoaded hs.lsr_lt] at h
    refine ⟨_, _, hfirst, hsecond, rfl, fun _ => ?_⟩
    rw [State.dr, reg_lsr_rhrLoaded hs.lsr_lt, flagDr_withDrClear]
  · exact ⟨_, _, act_ld_raw hs.legal hready h0 ho,
      act_ld_raw (s := s.respond (.rdata (s.reg o))) hs.legal hready h0 ho, rfl, fun h => absurd h h0⟩

/-- Settles O53: each run of two stores ends in the two writes one after the other, and the writes commute. -/
theorem storesToDistinctUartOffsetsCommute : Obligations.StoresToDistinctUartOffsetsCommute := by
  intro s o o' v v' hs hready hout hne ho ho'
  refine ⟨_, runMoves_st_st hs.legal hready hout ho ho', ?_⟩
  rw [runMoves_st_st hs.legal hready hout ho' ho, uartStored_comm v v' s hne]

/-- Settles O4: the effect of the load, with its wake written out. -/
theorem rhrLoadReturnsTheByteClearsDrAndWakes : Obligations.RhrLoadReturnsTheByteClearsDrAndWakes := by
  intro s hrun
  refine ⟨fun hfree b hb => ?_, fun hfree hne => ?_, fun hp => ?_⟩
  · rw [exec_uartLdRhr_of_ready ⟨hrun, hfree⟩, rhrLoaded, wake_of_waiting hb]; rfl
  · rw [exec_uartLdRhr_of_ready ⟨hrun, hfree⟩, rhrLoaded, wake_of_not_waiting hne]; rfl
  · exact exec_uartLdRhr_of_poisoned hrun hp

/-- Settles O5: each load is the raw load of its offset. -/
theorem rawRegisterLoadsReturnTheByte : Obligations.RawRegisterLoadsReturnTheByte := fun _ hrun =>
  ⟨fun hfree =>
    ⟨(exec_uartLdLcr hrun).trans (loadRaw_of_free hfree),
      (exec_uartLdLsr hrun).trans (loadRaw_of_free hfree),
      fun _ ho => (exec_uartLdReg hrun ho).trans (loadRaw_of_free hfree)⟩,
    fun hp =>
    ⟨(exec_uartLdLcr hrun).trans (loadRaw_of_poisoned hp),
      (exec_uartLdLsr hrun).trans (loadRaw_of_poisoned hp),
      fun _ ho => (exec_uartLdReg hrun ho).trans (loadRaw_of_poisoned hp)⟩⟩

/-- Settles O6: the store tests the lock and then the output stream. -/
theorem thrStoreEmitsTheByte : Obligations.ThrStoreEmitsTheByte := fun _ _ hrun =>
  ⟨fun hfree hout => exec_uartStThr_of_ready ⟨hrun, hfree⟩ hout,
    exec_uartStThr_of_poisoned hrun⟩

/-- Settles O8: each store is the raw store of its offset. -/
theorem rawRegisterStoresWriteTheWholeByte : Obligations.RawRegisterStoresWriteTheWholeByte := fun _ v hrun =>
  ⟨fun hfree =>
    ⟨(RawStore.lcr v).exec_of_ready ⟨hrun, hfree⟩,
      (RawStore.lsr v).exec_of_ready ⟨hrun, hfree⟩,
      fun o ho => (RawStore.plain o v ho).exec_of_ready ⟨hrun, hfree⟩⟩,
    fun hp =>
    ⟨(exec_uartStLcr hrun).trans (storeRaw_of_poisoned hp),
      (exec_uartStLsr hrun).trans (storeRaw_of_poisoned hp),
      fun _ ho => (exec_uartStReg hrun ho).trans (storeRaw_of_poisoned hp)⟩⟩

end Sys2Proof.Machine
end

section
/-! SUPPORT. The producer and the interrupt poll (spec/41_rx_irq.md R93 to R99): what each of their operations answers,
and which of them a producer move runs. -/

namespace Sys2Proof.Machine

section
variable {s t : State} {b : Byte} {e : InEvent} {rest : List InEvent}

theorem consumeEvent_of_cons (hin : s.rxin = e :: rest) : consumeEvent s = s.setRxin rest := by
  rw [consumeEvent, hin, List.tail_cons]

theorem exec_rxReadByte_of_offered (hrun : s.fault = none) (hrx : s.rx = .reading) (hin : s.rxin = .inByte b :: rest) :
    exec (.rxReadByte b) s = .next (((s.setRxin rest).setRx (.got b)).respond .silent) := by
  rw [exec, execRxReadByte, whileRunning_of_running _ hrun, if_pos ⟨hrx, congrArg List.head? hin⟩,
    consumeEvent_of_cons hin]

theorem exec_rxReadErr_of_offered (hrun : s.fault = none) (hrx : s.rx = .reading) (hin : s.rxin = .inError :: rest) :
    exec .rxReadErr s = .next ((s.setRxin rest).respond .errorReport) := by
  rw [exec, execRxReadErr, whileRunning_of_running _ hrun, if_pos ⟨hrx, congrArg List.head? hin⟩,
    consumeEvent_of_cons hin]

theorem exec_rxReadEnd_of_offered (hrun : s.fault = none) (hrx : s.rx = .reading) (hin : s.rxin = .inEnd :: rest) :
    ∃ r : Rx, (r = .reading ∨ ∃ d : Byte, r = .got d) ∧
      exec .rxReadEnd s = .next (((s.setRxin rest).setRx r).countDraw.respond .silent) := by
  rw [exec, execRxReadEnd, whileRunning_of_running _ hrun, if_pos ⟨hrx, congrArg List.head? hin⟩,
    consumeEvent_of_cons hin]
  cases hk : Config.endOfInputYieldsByte s.draws with
  | true => exact ⟨_, .inr ⟨_, rfl⟩, rfl⟩
  | false => exact ⟨_, .inl rfl, rfl⟩

theorem exec_rxCheck_of_full (hready : s.Ready) (holds : s.rx = .got b ∨ s.rx = .woken b) (hdr : s.dr = true) :
    exec (.rxCheck b) s = .next ((s.setRx (.waiting b)).respond .silent) := by
  obtain ⟨hrun, hfree⟩ := hready
  rw [exec, execRxCheck, whileRunning_of_running _ hrun, if_pos holds, atomicL_of_free _ hfree, if_pos hdr]

theorem exec_rxCheck_of_poisoned (hrun : s.fault = none) (holds : s.rx = .got b ∨ s.rx = .woken b)
    (hp : s.poisoned = true) : exec (.rxCheck b) s = raise (.lockPoisoned .rxCheck) s := by
  rw [exec, execRxCheck, whileRunning_of_running _ hrun, if_pos holds, atomicL_of_poisoned _ hp]

theorem exec_rxSpurious_of_waiting (hrun : s.fault = none) (hsp : s.params.spuriousWake = true)
    (hrx : s.rx = .waiting b) : exec (.rxSpurious b) s = .next ((s.setRx (.woken b)).respond .silent) := by
  rw [exec, execRxSpurious, whileRunning_of_running _ hrun, if_pos ⟨hsp, hrx⟩]

theorem exec_irqPoll (hrun : s.fault = none) :
    exec .irqPoll s = .next ((s.setIrq false).respond (.polled s.irq)) := by
  rw [exec, execIrqPoll, whileRunning_of_running _ hrun]

/-- The operation by which a `Reading` producer takes an event (R75 rows 16 to 18). -/
def readOp (e : InEvent) : Instr :=
  match e with
  | .inByte b => .rxReadByte b
  | .inError => .rxReadErr
  | .inEnd => .rxReadEnd

theorem act_bg_of_offered (hrun : s.fault = none) (hrx : s.rx = .reading) (hin : s.rxin = e :: rest) :
    act .bg s = exec (readOp e) s := by
  refine act_of_decode hrun rfl ?_
  rw [producerKey, hrx, hin]
  cases e <;> rfl

theorem act_bg_of_spurious (hrun : s.fault = none) (hrx : s.rx = .waiting b) (hsp : s.params.spuriousWake = true) :
    act .bg s = exec (.rxSpurious b) s := by
  refine act_of_decode hrun rfl ?_
  rw [producerKey, hrx, hsp]
  rfl

theorem act_bg_of_no_input (hrun : s.fault = none) (hrx : s.rx = .reading) (hin : s.rxin = []) :
    act .bg s = hold s := by
  rw [act, whileRunning_of_running _ hrun, producerKey, hrx, hin]
  rfl

theorem act_bg_of_waiting (hrun : s.fault = none) (hrx : s.rx = .waiting b) (hsp : s.params.spuriousWake = false) :
    act .bg s = hold s := by
  rw [act, whileRunning_of_running _ hrun, producerKey, hrx, hsp]
  rfl

end

/-- Settles O10: a read tests the producer's state and the head of RXIN, and nothing else. -/
theorem readByteTakesTheOfferedByte : Obligations.ReadByteTakesTheOfferedByte :=
  fun _ _ _ => exec_rxReadByte_of_offered

/-- Settles O11, by what the read of an error leaves. -/
theorem readErrorIsReportedAndReadingGoesOn : Obligations.ReadErrorIsReportedAndReadingGoesOn :=
  fun _ _ => exec_rxReadErr_of_offered

/-- Settles O12: the free choice has the two values that the statement names. -/
theorem endOfInputStaysReadingOrDrawsAByte : Obligations.EndOfInputStaysReadingOrDrawsAByte :=
  fun _ _ => exec_rxReadEnd_of_offered

/-- Settles O13: the LSR that the delivery reads is the one from before, since the RHR is another register. -/
theorem checkDeliversOrWaits : Obligations.CheckDeliversOrWaits := by
  intro s b hrun holds
  refine ⟨fun hfree => exec_rxCheck_of_full ⟨hrun, hfree⟩ holds, fun hfree hdr => ?_,
    exec_rxCheck_of_poisoned hrun holds⟩
  have hlsr : (s.setReg offRhr b).reg offLsr = s.reg offLsr := State.reg_setReg_ne s b (by decide)
  rw [exec_rxCheck_of_empty ⟨hrun, hfree⟩ holds hdr, deliver, State.reg_setIrq, hlsr]
  rfl

/-- Settles O14, by what the wake leaves: it takes no lock and tests only the switch and the producer. -/
theorem spuriousWakeMovesWaitingToWoken : Obligations.SpuriousWakeMovesWaitingToWoken :=
  fun _ _ => exec_rxSpurious_of_waiting

/-- Settles O15, by what the producer's key decodes to in each of its states. -/
theorem producerHoldsExactlyInTwoCases : Obligations.ProducerHoldsExactlyInTwoCases := fun _ hrun =>
  ⟨act_bg_of_no_input hrun, fun _ => act_bg_of_waiting hrun, fun _ => act_bg_of_holds hrun,
    fun _ => act_bg_of_spurious hrun, fun _ _ => act_bg_of_offered hrun, fun _ => act_bg_of_offered hrun,
    fun _ => act_bg_of_offered hrun⟩

/-- Settles O16: a poll tests neither the lock nor the producer. -/
theorem pollReturnsAndClearsIrq : Obligations.PollReturnsAndClearsIrq :=
  fun _ => exec_irqPoll

end Sys2Proof.Machine
end

section
/-! SUPPORT. The receive handshake in a run (spec/41_rx_irq.md §4): everything one move can do to the producer, to RXIN,
to `irq` and to `LSR.DR`, said once, and the statements about runs that follow (R101 to R104). -/

namespace Sys2Proof.Machine

/-! ### What a move delivers, and whether it is an RHR load -/

section
variable {s : State} {m : Move} {b : Byte}

theorem delivered_of_ne_bg (h : m ≠ .bg) : delivered m s = [] := if_neg fun hc => h hc.1

@[simp] theorem delivered_fg (r : Request) : delivered (.fg r) s = [] := delivered_of_ne_bg nofun
@[simp] theorem delivered_offer (e : InEvent) : delivered (.offer e) s = [] := delivered_of_ne_bg nofun
@[simp] theorem delivered_output (f : Bool) : delivered (.output f) s = [] := delivered_of_ne_bg nofun

theorem delivered_of_poisoned (h : s.poisoned = true) : delivered m s = [] := if_neg (by simp [h])

theorem delivered_of_full (h : s.dr = true) : delivered m s = [] := if_neg (by simp [h])

theorem delivered_of_reading (h : s.rx = .reading) : delivered m s = [] := by simp [delivered, h]

theorem delivered_of_waiting (h : s.rx = .waiting b) : delivered m s = [] := by simp [delivered, h]

theorem delivered_of_holds (hready : s.Ready) (holds : s.rx = .got b ∨ s.rx = .woken b) (hdr : s.dr = false) :
    delivered .bg s = [b] := by
  rw [delivered, if_pos ⟨rfl, hready, hdr⟩]
  rcases holds with h | h <;> rw [h]

theorem selects_fg {r : Request} {i : Instr} (h : decode s.params (.fg r) = .ok i) : selects (.fg r) s = some i := by
  simp [selects, moveKey, h, Except.toOption]

theorem selects_bg_ne_rhrLoad : selects .bg s ≠ some .uartLdRhr := by
  simp only [selects, moveKey, producerKey]
  cases s.rx with
  | reading =>
    cases s.rxin.head? with
    | none => simp [decode, decodeRx, Except.toOption]
    | some e => cases e <;> simp [decode, decodeRx, Except.toOption]
  | got | woken => simp [decode, decodeRx, Except.toOption]
  | waiting => cases h : s.params.spuriousWake <;> simp [decode, decodeRx, Except.toOption]

end

/-! ### The effect of a foreground request -/

/-- `t` has the producer, RXIN, `irq` and `LSR.DR` of `s`, and no poll answered `true`. -/
structure State.SameHandshake (s t : State) : Prop where
  rx : t.rx = s.rx
  rxin : t.rxin = s.rxin
  irq : t.irq = s.irq
  dr : t.dr = s.dr
  unpolled : t.resp ≠ .polled true

theorem State.SameHandshake.respond (s : State) {r : Response} (hr : r ≠ .polled true) :
    s.SameHandshake (s.respond r) :=
  ⟨rfl, rfl, rfl, rfl, hr⟩

theorem State.SameHandshake.raised (s : State) (f : Fault) : s.SameHandshake ((s.setFault f).respond .silent) :=
  ⟨rfl, rfl, rfl, rfl, nofun⟩

/-- A raw store to another register than the LSR keeps `LSR.DR`. -/
theorem State.SameHandshake.rawStore (s : State) {o : Nat} (v : Byte) (ho : offLsr ≠ o) :
    s.SameHandshake ((s.setReg o v).respond .ack) :=
  ⟨rfl, rfl, rfl, congrArg flagDr (State.reg_setReg_ne s v ho), nofun⟩

/-- The operation is one of the producer's (R75 rows 16 to 20). -/
def producerOp (i : Instr) : Bool :=
  match i with
  | .rxReadByte _ | .rxReadErr | .rxReadEnd | .rxCheck _ | .rxSpurious _ => true
  | _ => false

theorem producerOp_decodeUart (kind : AccessKind) (o : Nat) (v : Byte) : producerOp (decodeUart kind o v) = false := by
  cases kind <;> simp only [decodeUart] <;> split_ifs <;> rfl

theorem producerOp_decodeBus (p : Params) (kind : AccessKind) (addr size value : Nat) :
    producerOp (decodeBus p kind addr size value) = false := by
  unfold decodeBus
  split
  · rfl
  · split_ifs
    · rfl
    · exact producerOp_decodeUart _ _ _
  · split_ifs
    · rfl
    · rfl
    · cases kind <;> rfl

/-- No request of the foreground selects an operation of the producer. -/
theorem decode_fg_foreground {p : Params} {r : Request} {i : Instr} (h : decode p (.fg r) = .ok i) :
    producerOp i = false := by
  cases r with
  | bus kind addr size value =>
    obtain ⟨-, rfl⟩ := decode_bus_ok_iff.1 h
    exact producerOp_decodeBus p kind addr size value
  | poll => cases h; rfl
  | refresh => cases h; rfl
  | fetch addr => obtain ⟨-, -, rfl⟩ := decode_fetch_ok_iff.1 h; rfl

/-- What a foreground operation `i` can do to the handshake. -/
inductive ForegroundEffect (s : State) : Instr → State → Prop where
  | quiet {i : Instr} {t : State} (same : s.SameHandshake t) (noLoad : ¬(i = .uartLdRhr ∧ s.Ready)) :
    ForegroundEffect s i t
  | rhrLoad (ready : s.Ready) : ForegroundEffect s .uartLdRhr (rhrLoaded s)
  | lsrStore (v : Byte) : ForegroundEffect s (.uartStLsr v) ((s.setReg offLsr v).respond .ack)
  | poll : ForegroundEffect s .irqPoll ((s.setIrq false).respond (.polled s.irq))

theorem exec_foregroundEffect {i : Instr} {s t : State} (hi : producerOp i = false) (h : exec i s = .next t) :
    ForegroundEffect s i t := by
  cases i with
  | fetchFault => obtain ⟨-, rfl⟩ := execFetchFault_next h; exact .quiet (.raised s _) nofun
  | busFaultUnmapped => obtain ⟨-, rfl⟩ := execBusFaultUnmapped_next h; exact .quiet (.raised s _) nofun
  | busFaultWidth => obtain ⟨-, rfl⟩ := execBusFaultWidth_next h; exact .quiet (.raised s _) nofun
  | busFaultRange => obtain ⟨-, rfl⟩ := execBusFaultRange_next h; exact .quiet (.raised s _) nofun
  | uartLdRhr =>
    obtain ⟨hrun, ⟨hp, rfl⟩ | ⟨hfree, rfl⟩⟩ := execUartLdRhr_next h
    · exact .quiet (.raised s _) fun ⟨_, _, hfree⟩ => by simp [hp] at hfree
    · exact .rhrLoad ⟨hrun, hfree⟩
  | uartLdLcr =>
    obtain ⟨-, ⟨-, rfl⟩ | ⟨-, rfl⟩⟩ := execUartLdLcr_next h
    · exact .quiet (.raised s _) nofun
    · exact .quiet (.respond s nofun) nofun
  | uartLdLsr =>
    obtain ⟨-, ⟨-, rfl⟩ | ⟨-, rfl⟩⟩ := execUartLdLsr_next h
    · exact .quiet (.raised s _) nofun
    · exact .quiet (.respond s nofun) nofun
  | uartLdReg =>
    obtain ⟨-, -, ⟨-, rfl⟩ | ⟨-, rfl⟩⟩ := execUartLdReg_next h
    · exact .quiet (.raised s _) nofun
    · exact .quiet (.respond s nofun) nofun
  | uartStThr v =>
    obtain ⟨-, ⟨-, rfl⟩ | ⟨-, -, rfl⟩ | ⟨-, -, s', keeps, rfl⟩⟩ := execUartStThr_next h
    · exact .quiet (.raised s _) nofun
    · exact .quiet ⟨rfl, rfl, rfl, rfl, nofun⟩ nofun
    · rcases keeps with rfl | rfl <;> exact .quiet ⟨rfl, rfl, rfl, rfl, nofun⟩ nofun
  | uartStLcr v =>
    obtain ⟨-, ⟨-, rfl⟩ | ⟨-, rfl⟩⟩ := execUartStLcr_next h
    · exact .quiet (.raised s _) nofun
    · exact .quiet (.rawStore s v (by decide)) nofun
  | uartStLsr v =>
    obtain ⟨-, ⟨-, rfl⟩ | ⟨-, rfl⟩⟩ := execUartStLsr_next h
    · exact .quiet (.raised s _) nofun
    · exact .lsrStore v
  | uartStReg o v =>
    obtain ⟨-, ho, ⟨-, rfl⟩ | ⟨-, rfl⟩⟩ := execUartStReg_next h
    · exact .quiet (.raised s _) nofun
    · exact .quiet (.rawStore s v ho.ne.2.2.symm) nofun
  | fbLd => obtain ⟨-, -, rfl⟩ := execFbLd_next h; exact .quiet (.respond s nofun) nofun
  | fbSt => obtain ⟨-, -, rfl⟩ := execFbSt_next h; exact .quiet ⟨rfl, rfl, rfl, rfl, nofun⟩ nofun
  | irqPoll => obtain ⟨-, rfl⟩ := execIrqPoll_next h; exact .poll
  | fbRefresh => obtain ⟨-, rfl⟩ := execFbRefresh_next h; exact .quiet (.respond s nofun) nofun
  | rxReadByte | rxReadErr | rxReadEnd | rxCheck | rxSpurious => cases hi

theorem act_fg_effect {r : Request} {s t : State} (h : act (.fg r) s = .next t) :
    ∃ i, decode s.params (.fg r) = .ok i ∧ ForegroundEffect s i t := by
  obtain ⟨-, ⟨i, hsel, hexec⟩ | ⟨-, ⟨hm, -⟩ | ⟨_, hm, -⟩ | ⟨_, hm, -⟩⟩⟩ := act_next h
  · cases hi : decode s.params (.fg r) with
    | error _ => simp [selects, moveKey, hi, Except.toOption] at hsel
    | ok j =>
      obtain rfl : j = i := Option.some.inj ((selects_fg hi).symm.trans hsel)
      exact ⟨j, rfl, exec_foregroundEffect (decode_fg_foreground hi) hexec⟩
  all_goals cases hm

/-! ### The effect of a host move -/

theorem act_offer_next {e : InEvent} {s t : State} (h : act (.offer e) s = .next t) :
    t = (s.setRxin (s.rxin ++ [e])).respond .silent :=
  (Host.Outcome.next.inj (whileRunning_next h).2).symm

theorem act_output_next {f : Bool} {s t : State} (h : act (.output f) s = .next t) :
    t = (s.setTxFails f).respond .silent :=
  (Host.Outcome.next.inj (whileRunning_next h).2).symm

/-! ### The effect of a producer move -/

/-- The producer state that taking the event leads to (R93 to R95). -/
inductive ReadLeads : InEvent → Rx → Prop where
  | byte (b : Byte) : ReadLeads (.inByte b) (.got b)
  | error : ReadLeads .inError .reading
  | ended : ReadLeads .inEnd .reading
  | endedWith (d : Byte) : ReadLeads .inEnd (.got d)

theorem ReadLeads.ne_waiting {e : InEvent} {r : Rx} (h : ReadLeads e r) (b : Byte) : r ≠ .waiting b := by
  cases h <;> exact Rx.noConfusion

/-- What a producer move can do to the handshake. -/
inductive ProducerEffect (s : State) : State → Prop where
  /-- A hold, or a check that meets the poisoned lock. -/
  | quiet {t : State} (same : s.SameHandshake t) (none : delivered .bg s = []) : ProducerEffect s t
  | reads (e : InEvent) (rest : List InEvent) (r : Rx) (n : Nat) (a : Response) (reading : s.rx = .reading)
    (offered : s.rxin = e :: rest) (leads : ReadLeads e r) (unpolled : a ≠ .polled true) :
    ProducerEffect s { s with rxin := rest, rx := r, draws := n, resp := a }
  | waits (b : Byte) (holds : s.rx = .got b ∨ s.rx = .woken b) (full : s.dr = true) :
    ProducerEffect s ((s.setRx (.waiting b)).respond .silent)
  | wakes (b : Byte) (waiting : s.rx = .waiting b) : ProducerEffect s ((s.setRx (.woken b)).respond .silent)
  | delivers (b : Byte) (ready : s.Ready) (holds : s.rx = .got b ∨ s.rx = .woken b) (empty : s.dr = false) :
    ProducerEffect s ((deliver b s).respond .silent)

section
variable {s t : State} {b : Byte} {e : InEvent} {rest : List InEvent}

theorem exec_readOp_effect (hrun : s.fault = none) (hrx : s.rx = .reading) (hin : s.rxin = e :: rest)
    (h : exec (readOp e) s = .next t) : ProducerEffect s t := by
  cases e with
  | inByte b =>
    obtain rfl := Host.Outcome.next.inj ((exec_rxReadByte_of_offered hrun hrx hin).symm.trans h)
    exact .reads _ rest _ _ _ hrx hin (.byte b) nofun
  | inError =>
    obtain rfl := Host.Outcome.next.inj ((exec_rxReadErr_of_offered hrun hrx hin).symm.trans h)
    have heff := ProducerEffect.reads _ rest _ s.draws .errorReport hrx hin .error nofun
    rwa [← hrx] at heff
  | inEnd =>
    obtain ⟨r, hr, hexec⟩ := exec_rxReadEnd_of_offered hrun hrx hin
    obtain rfl := Host.Outcome.next.inj (hexec.symm.trans h)
    obtain rfl | ⟨d, rfl⟩ := hr
    · exact .reads _ rest _ _ _ hrx hin .ended nofun
    · exact .reads _ rest _ _ _ hrx hin (.endedWith d) nofun

theorem exec_rxCheck_effect (holds : s.rx = .got b ∨ s.rx = .woken b) (h : exec (.rxCheck b) s = .next t) :
    ProducerEffect s t := by
  obtain ⟨hrun, ⟨-, ⟨hp, rfl⟩ | ⟨-, full, rfl⟩ | ⟨hfree, empty, rfl⟩⟩ | ⟨hn, -⟩⟩ := execRxCheck_next h
  · exact .quiet (.raised s _) (delivered_of_poisoned hp)
  · exact .waits b holds full
  · exact .delivers b ⟨hrun, hfree⟩ holds empty
  · exact absurd holds hn

theorem act_bg_effect (h : act .bg s = .next t) : ProducerEffect s t := by
  have hrun : s.fault = none := (whileRunning_next h).1
  cases hrx : s.rx with
  | reading =>
    cases hin : s.rxin with
    | nil =>
      obtain rfl := hold_next ((act_bg_of_no_input hrun hrx hin).symm.trans h)
      exact .quiet (.respond s nofun) (delivered_of_reading hrx)
    | cons e rest => exact exec_readOp_effect hrun hrx hin ((act_bg_of_offered hrun hrx hin).symm.trans h)
  | got b => exact exec_rxCheck_effect (.inl hrx) ((act_bg_of_holds hrun (.inl hrx)).symm.trans h)
  | woken b => exact exec_rxCheck_effect (.inr hrx) ((act_bg_of_holds hrun (.inr hrx)).symm.trans h)
  | waiting b =>
    cases hsp : s.params.spuriousWake with
    | false =>
      obtain rfl := hold_next ((act_bg_of_waiting hrun hrx hsp).symm.trans h)
      exact .quiet (.respond s nofun) (delivered_of_waiting hrx)
    | true =>
      have hexec : exec (.rxSpurious b) s = .next t := (act_bg_of_spurious hrun hrx hsp).symm.trans h
      obtain rfl := Host.Outcome.next.inj ((exec_rxSpurious_of_waiting hrun hsp hrx).symm.trans hexec)
      exact .wakes b hrx

end

/-! ### `LSR.DR` and the unread byte (R101) -/

section
variable {s t : State} {m : Move} {u : Bool}

/-- Whether a delivered byte is unread after move `m` from `s`, when `u` says whether one was before. -/
def unreadStep (m : Move) (s : State) (u : Bool) : Bool :=
  if delivered m s ≠ [] then true else if selects m s = some .uartLdRhr ∧ s.Ready then false else u

theorem unreadAfter_cons {ms : List Move} (h : act m s = .next t) :
    unreadAfter (m :: ms) s u = unreadAfter ms t (unreadStep m s u) := by
  rw [unreadAfter, h]; rfl

theorem unreadStep_of_delivered (h : delivered m s ≠ []) : unreadStep m s u = true := if_pos h

theorem unreadStep_of_load (hnone : delivered m s = []) (hsel : selects m s = some .uartLdRhr) (hready : s.Ready) :
    unreadStep m s u = false := by
  rw [unreadStep, if_neg (not_not.2 hnone), if_pos ⟨hsel, hready⟩]

theorem unreadStep_of_neither (hnone : delivered m s = []) (hload : ¬(selects m s = some .uartLdRhr ∧ s.Ready)) :
    unreadStep m s u = u := by
  rw [unreadStep, if_neg (not_not.2 hnone), if_neg hload]

theorem unreadStep_bg (hnone : delivered .bg s = []) : unreadStep .bg s u = u :=
  unreadStep_of_neither hnone fun h => selects_bg_ne_rhrLoad h.1

theorem State.Mailbox.of_same (h : s.Mailbox) (hrx : t.rx = s.rx) (hdr : t.dr = s.dr) : t.Mailbox :=
  fun b hb => hdr.trans (h b (hrx.symm.trans hb))

theorem mailbox_of_not_waiting (h : ∀ b, t.rx ≠ .waiting b) : t.Mailbox := fun b hb => absurd hb (h b)

/-- A request that is no store to offset 5 keeps the mailbox, and only an RHR load writes `LSR.DR`. -/
theorem act_fg_keeps_mailbox {r : Request} (hs : s.Wf) (hbox : s.Mailbox)
    (hstore : ∀ v, decode s.params (.fg r) ≠ .ok (.uartStLsr v)) (h : act (.fg r) s = .next t) :
    t.Mailbox ∧ t.dr = unreadStep (.fg r) s s.dr := by
  obtain ⟨i, hi, heff⟩ := act_fg_effect h
  have hsel : selects (.fg r) s = some i := selects_fg hi
  cases heff with
  | quiet same noLoad =>
    refine ⟨hbox.of_same same.rx same.dr, same.dr.trans (unreadStep_of_neither (delivered_fg r) ?_).symm⟩
    rwa [hsel, Option.some.injEq]
  | rhrLoad ready =>
    refine ⟨mailbox_of_not_waiting (wake_rx_ne_waiting s), ?_⟩
    rw [unreadStep_of_load (delivered_fg r) hsel ready, State.dr, reg_lsr_rhrLoaded hs.lsr_lt, flagDr_withDrClear]
  | lsrStore v => exact absurd hi (hstore v)
  | poll =>
    exact ⟨hbox.of_same rfl rfl, (unreadStep_of_neither (delivered_fg r) (by simp [hsel])).symm⟩

/-- A producer move keeps the mailbox: it waits only on `DR` set; and only a delivery writes `LSR.DR`. -/
theorem act_bg_keeps_mailbox (hs : s.Wf) (hbox : s.Mailbox) (h : act .bg s = .next t) :
    t.Mailbox ∧ t.dr = unreadStep .bg s s.dr := by
  cases act_bg_effect h with
  | quiet same none => exact ⟨hbox.of_same same.rx same.dr, same.dr.trans (unreadStep_bg none).symm⟩
  | reads e rest r n a reading offered leads =>
    exact ⟨mailbox_of_not_waiting leads.ne_waiting, (unreadStep_bg (delivered_of_reading reading)).symm⟩
  | waits b holds full => exact ⟨fun _ _ => full, (unreadStep_bg (delivered_of_full full)).symm⟩
  | wakes b waiting => exact ⟨mailbox_of_not_waiting nofun, (unreadStep_bg (delivered_of_waiting waiting)).symm⟩
  | delivers b ready holds empty =>
    refine ⟨mailbox_of_not_waiting nofun, ?_⟩
    rw [unreadStep_of_delivered (by simp [delivered_of_holds ready holds empty]), State.dr, State.reg_respond,
      deliver_reg_lsr hs.lsr_lt, flagDr_withDrSet]

/-- R101 for one move. -/
theorem act_keeps_mailbox (hs : s.Wf) (hbox : s.Mailbox) (hstore : NoLsrStore s.params [m]) (h : act m s = .next t) :
    t.Mailbox ∧ t.dr = unreadStep m s s.dr := by
  cases m with
  | fg r => exact act_fg_keeps_mailbox hs hbox (hstore r List.mem_cons_self) h
  | bg => exact act_bg_keeps_mailbox hs hbox h
  | offer e =>
    obtain rfl := act_offer_next h
    exact ⟨hbox.of_same rfl rfl, (unreadStep_of_neither (delivered_offer e) (by simp [selects, moveKey])).symm⟩
  | output f =>
    obtain rfl := act_output_next h
    exact ⟨hbox.of_same rfl rfl, (unreadStep_of_neither (delivered_output f) (by simp [selects, moveKey])).symm⟩

theorem NoLsrStore.cons {p : Params} {ms : List Move} (h : NoLsrStore p (m :: ms)) :
    NoLsrStore p [m] ∧ NoLsrStore p ms :=
  ⟨fun r hr => h r (List.mem_cons.2 (.inl (List.mem_singleton.1 hr))), fun r hr => h r (List.mem_cons_of_mem m hr)⟩

end

/-- Settles O56, by induction on the moves: each keeps the state well formed and the mailbox, and makes `LSR.DR` what
the unread byte says. -/
theorem drIsOneExactlyWhileAByteIsUnread : Obligations.DrIsOneExactlyWhileAByteIsUnread := by
  intro ms s t hs hbox hstore h
  induction ms generalizing s with
  | nil => cases h; exact ⟨hbox, rfl⟩
  | cons m ms ih =>
    obtain ⟨v, hact, hrest⟩ := runMoves_cons_next h
    obtain ⟨hfirst, hlater⟩ := hstore.cons
    obtain ⟨hwf, hparams, -⟩ := act_keeps_wf hs hact
    obtain ⟨hboxv, hdr⟩ := act_keeps_mailbox hs hbox hfirst hact
    rw [unreadAfter_cons hact, ← hdr]
    exact ih v hwf hboxv (hparams.symm ▸ hlater) hrest

/-! ### The bytes of the input stream (R103) -/

section
variable {s t : State} {m : Move} {ms : List Move}

theorem inBytes_append (es es' : List InEvent) : inBytes (es ++ es') = inBytes es ++ inBytes es' :=
  List.filterMap_append

theorem offersOf_cons (m : Move) (ms : List Move) : offersOf (m :: ms) = offersOf [m] ++ offersOf ms :=
  List.filterMap_append (l := [m])

theorem deliveries_cons (h : act m s = .next t) : deliveries (m :: ms) s = delivered m s ++ deliveries ms t := by
  rw [deliveries, h]

/-- A wake keeps the byte the producer holds. -/
theorem heldBytes_wake (s : State) : heldBytes (wake s).rx = heldBytes s.rx := by
  obtain ⟨b, hb, hw⟩ | ⟨-, hw⟩ := wake_cases s
  · rw [hw, hb]; rfl
  · rw [hw]

theorem heldBytes_of_holds {r : Rx} {b : Byte} (h : r = .got b ∨ r = .woken b) : heldBytes r = [b] := by
  rcases h with rfl | rfl <;> rfl

/-- Where no input ends, the byte among an event taken is the one the producer then holds. -/
theorem ReadLeads.heldBytes_append {e : InEvent} {r : Rx} (h : ReadLeads e r) (he : e ≠ .inEnd)
    (rest : List InEvent) : heldBytes r ++ inBytes rest = inBytes (e :: rest) := by
  cases h with
  | byte => rfl
  | error => rfl
  | ended => exact absurd rfl he
  | endedWith => exact absurd rfl he

/-- What a move of another agent leaves of the producer's side: offers are queued behind the events offered before, and
the producer is at most woken. -/
theorem act_of_ne_bg (hm : m ≠ .bg) (h : act m s = .next t) :
    t.rxin = s.rxin ++ offersOf [m] ∧ (t.rx = s.rx ∨ t.rx = (wake s).rx) := by
  cases m with
  | fg r =>
    have hoffers : offersOf [.fg r] = [] := rfl
    rw [hoffers, List.append_nil]
    obtain ⟨i, -, heff⟩ := act_fg_effect h
    cases heff with
    | quiet same => exact ⟨same.rxin, .inl same.rx⟩
    | rhrLoad => exact ⟨wake_rxin s, .inr rfl⟩
    | lsrStore => exact ⟨rfl, .inl rfl⟩
    | poll => exact ⟨rfl, .inl rfl⟩
  | bg => exact absurd rfl hm
  | offer e => obtain rfl := act_offer_next h; exact ⟨rfl, .inl rfl⟩
  | output f => obtain rfl := act_output_next h; exact ⟨(List.append_nil _).symm, .inl rfl⟩

/-- A producer move passes each byte on, from RXIN to the producer and from the producer to the RHR. -/
theorem act_bg_conserves_bytes (hend : .inEnd ∉ s.rxin) (h : act .bg s = .next t) :
    delivered .bg s ++ heldBytes t.rx ++ inBytes t.rxin = heldBytes s.rx ++ inBytes s.rxin ∧ .inEnd ∉ t.rxin := by
  cases act_bg_effect h with
  | quiet same none => rw [none, same.rx, same.rxin]; exact ⟨rfl, hend⟩
  | reads e rest r n a reading offered leads =>
    rw [offered, List.mem_cons, not_or] at hend
    rw [delivered_of_reading reading, reading, offered]
    exact ⟨leads.heldBytes_append (Ne.symm hend.1) rest, hend.2⟩
  | waits b holds full => rw [delivered_of_full full, heldBytes_of_holds holds]; exact ⟨rfl, hend⟩
  | wakes b waiting => rw [delivered_of_waiting waiting, waiting]; exact ⟨rfl, hend⟩
  | delivers b ready holds empty =>
    rw [delivered_of_holds ready holds empty, heldBytes_of_holds holds]; exact ⟨rfl, hend⟩

/-- R103 for one move. -/
theorem act_conserves_bytes (hend : .inEnd ∉ s.rxin) (hoffer : .inEnd ∉ offersOf [m]) (h : act m s = .next t) :
    delivered m s ++ heldBytes t.rx ++ inBytes t.rxin = heldBytes s.rx ++ inBytes s.rxin ++ inBytes (offersOf [m]) ∧
      .inEnd ∉ t.rxin := by
  by_cases hm : m = .bg
  · subst hm
    have hnone : inBytes (offersOf [.bg]) = [] := rfl
    rw [hnone, List.append_nil]
    exact act_bg_conserves_bytes hend h
  · obtain ⟨hrxin, hrx⟩ := act_of_ne_bg hm h
    have hheld : heldBytes t.rx = heldBytes s.rx := by
      rcases hrx with hrx | hrx
      · rw [hrx]
      · rw [hrx, heldBytes_wake]
    rw [delivered_of_ne_bg hm, hheld, hrxin, inBytes_append, List.nil_append, List.append_assoc,
      List.mem_append, not_or]
    exact ⟨rfl, hend, hoffer⟩

end

/-- Settles O57, by induction on the moves: each conserves the bytes, and offers go to the end of RXIN. -/
theorem bytesAreDeliveredInOrderOnceEach : Obligations.BytesAreDeliveredInOrderOnceEach := by
  intro ms s t hend hoffers h
  induction ms generalizing s with
  | nil => cases h; exact (List.append_nil _).symm
  | cons m ms ih =>
    obtain ⟨v, hact, hrest⟩ := runMoves_cons_next h
    rw [offersOf_cons, List.mem_append, not_or] at hoffers
    obtain ⟨hfirst, hlater⟩ := hoffers
    obtain ⟨hstep, hendv⟩ := act_conserves_bytes hend hfirst hact
    calc deliveries (m :: ms) s ++ heldBytes t.rx ++ inBytes t.rxin
        = delivered m s ++ (deliveries ms v ++ heldBytes t.rx ++ inBytes t.rxin) := by
          simp only [deliveries_cons hact, List.append_assoc]
      _ = delivered m s ++ heldBytes v.rx ++ inBytes v.rxin ++ inBytes (offersOf ms) := by
          rw [ih v hendv hlater hrest]; simp only [List.append_assoc]
      _ = heldBytes s.rx ++ inBytes s.rxin ++ inBytes (offersOf (m :: ms)) := by
          rw [hstep, offersOf_cons m ms, inBytes_append]; simp only [List.append_assoc]

/-! ### Polls and deliveries (R100, R104) -/

section
variable {s t : State} {m : Move} {ms : List Move}

/-- 1 while an interrupt is pending, else 0. -/
def pendingCount (s : State) : Nat := if s.irq then 1 else 0

/-- 1 after a poll that returned `true`, else 0. -/
def truePollCount (t : State) : Nat := if t.resp = .polled true then 1 else 0

/-- The deliveries of a move that find `irq` already `true`. -/
def coalescedCount (m : Move) (s : State) : Nat := if s.irq then (delivered m s).length else 0

theorem coalesced_cons (h : act m s = .next t) : coalesced (m :: ms) s = coalescedCount m s + coalesced ms t := by
  rw [coalesced, h]; rfl

theorem truePolls_cons (h : act m s = .next t) : truePolls (m :: ms) s = truePollCount t + truePolls ms t := by
  rw [truePolls, h]; rfl

/-- R104 for one move: its poll, its coalesced delivery and the indication it leaves account for its delivery and the
indication it found. -/
def PollAccount (m : Move) (s t : State) : Prop :=
  truePollCount t + coalescedCount m s + pendingCount t = (delivered m s).length + pendingCount s

theorem PollAccount.of_same (hnone : delivered m s = []) (hirq : t.irq = s.irq) (hresp : t.resp ≠ .polled true) :
    PollAccount m s t := by
  simp [PollAccount, truePollCount, coalescedCount, pendingCount, hnone, hirq, hresp]

/-- A poll turns the pending indication into its answer. -/
theorem PollAccount.of_poll (hnone : delivered m s = []) :
    PollAccount m s ((s.setIrq false).respond (.polled s.irq)) := by
  simp [PollAccount, truePollCount, coalescedCount, pendingCount, hnone]

/-- A delivery leaves an indication of its own, or coalesces with the one it found. -/
theorem PollAccount.of_delivery {b : Byte} (hone : delivered m s = [b]) :
    PollAccount m s ((deliver b s).respond .silent) := by
  cases hirq : s.irq <;> simp [PollAccount, truePollCount, coalescedCount, pendingCount, hone, hirq]

theorem act_pollAccount (h : act m s = .next t) : PollAccount m s t := by
  cases m with
  | fg r =>
    obtain ⟨i, -, heff⟩ := act_fg_effect h
    cases heff with
    | quiet same => exact .of_same (delivered_fg r) same.irq same.unpolled
    | rhrLoad => exact .of_same (delivered_fg r) (wake_irq s) nofun
    | lsrStore => exact .of_same (delivered_fg r) rfl nofun
    | poll => exact .of_poll (delivered_fg r)
  | bg =>
    cases act_bg_effect h with
    | quiet same none => exact .of_same none same.irq same.unpolled
    | reads e rest r n a reading offered leads unpolled => exact .of_same (delivered_of_reading reading) rfl unpolled
    | waits b holds full => exact .of_same (delivered_of_full full) rfl nofun
    | wakes b waiting => exact .of_same (delivered_of_waiting waiting) rfl nofun
    | delivers b ready holds empty => exact .of_delivery (delivered_of_holds ready holds empty)
  | offer e => obtain rfl := act_offer_next h; exact .of_same (delivered_offer e) rfl nofun
  | output f => obtain rfl := act_output_next h; exact .of_same (delivered_output f) rfl nofun

end

/-- Settles O58, by induction on the moves: the accounts of the moves add up. -/
theorem truePollsAccountForDeliveries : Obligations.TruePollsAccountForDeliveries := by
  intro ms s t h
  change truePolls ms s + coalesced ms s + pendingCount t = (deliveries ms s).length + pendingCount s
  induction ms generalizing s with
  | nil => cases h; simp [truePolls, coalesced, deliveries]
  | cons m ms ih =>
    obtain ⟨v, hact, hrest⟩ := runMoves_cons_next h
    have hstep : truePollCount v + coalescedCount m s + pendingCount v = (delivered m s).length + pendingCount s :=
      act_pollAccount hact
    have hlater := ih v hrest
    rw [truePolls_cons hact, coalesced_cons hact, deliveries_cons hact, List.length_append]
    omega

/-! ### Fairness (R102) -/

section
variable {schedule : Nat → Move} {s t : State} {n : Nat}

theorem runTo_succ (h : runTo schedule s n = .next t) : runTo schedule s (n + 1) = act (schedule n) t := by
  rw [runTo, h]

/-- What no other agent's move ends, and what must not hold for ever without a producer move, holds at some producer
move. -/
theorem exists_bg_of_stable {P : State → Prop} (hrun : ∀ k, ∃ u, runTo schedule s k = .next u)
    (stable : ∀ m u u', m ≠ .bg → P u → act m u = .next u' → P u')
    (fair : (∀ k, n ≤ k → ∃ u, runTo schedule s k = .next u ∧ P u) → ∃ k, n ≤ k ∧ schedule k = .bg)
    (ht : runTo schedule s n = .next t) (hP : P t) :
    ∃ k u, n ≤ k ∧ schedule k = .bg ∧ runTo schedule s k = .next u ∧ P u := by
  by_contra hnever
  have always : ∀ k, n ≤ k → ∃ u, runTo schedule s k = .next u ∧ P u := by
    refine Nat.le_induction ⟨t, ht, hP⟩ fun k hk ⟨u, hu, hPu⟩ => ?_
    have hother : schedule k ≠ .bg := fun hbg => hnever ⟨k, u, hk, hbg, hu, hPu⟩
    obtain ⟨u', hu'⟩ := hrun (k + 1)
    exact ⟨u', hu', stable _ u u' hother hPu ((runTo_succ hu).symm.trans hu')⟩
  obtain ⟨k, hk, hbg⟩ := fair always
  obtain ⟨u, hu, hPu⟩ := always k hk
  exact hnever ⟨k, u, hk, hbg, hu, hPu⟩

/-- Only a producer move changes the state of a producer that does not wait. -/
theorem act_keeps_rx_of_ne_bg {m : Move} (hm : m ≠ .bg) (h : act m s = .next t) (hw : ∀ b, s.rx ≠ .waiting b) :
    t.rx = s.rx := by
  obtain ⟨-, hrx⟩ := act_of_ne_bg hm h
  rwa [wake_of_not_waiting hw, or_self] at hrx

/-- Only a producer move changes the event that is next. -/
theorem act_keeps_head_of_ne_bg {m : Move} {e : InEvent} (hm : m ≠ .bg) (h : act m s = .next t)
    (he : s.rxin.head? = some e) : t.rxin.head? = some e := by
  obtain ⟨hrxin, -⟩ := act_of_ne_bg hm h
  rw [hrxin, List.head?_append, he, Option.some_or]

theorem checkEnabled_congr (h : t.rx = s.rx) : checkEnabled t = checkEnabled s := by
  rw [checkEnabled, checkEnabled, h]

theorem not_waiting_of_checkEnabled (h : checkEnabled s = true) (b : Byte) : s.rx ≠ .waiting b := by
  intro hb
  rw [checkEnabled, hb] at h
  cases h

theorem readEnabled_iff : readEnabled s = true ↔ s.rx = .reading ∧ ∃ e, s.rxin.head? = some e := by
  cases hin : s.rxin <;> simp [readEnabled, hin]

end

/-- Settles O59: other agents' moves leave an enabled step enabled, so by fairness a producer move comes while it is. -/
theorem fairProducerTakesItsStep : Obligations.FairProducerTakesItsStep := by
  intro schedule s hfair hnofault n t ht
  have hrun : ∀ k, ∃ u, runTo schedule s k = .next u := fun k => (hnofault k).imp fun _ h => h.1
  refine ⟨fun hcheck => ?_, fun hread => ?_⟩
  · refine exists_bg_of_stable (P := fun u => u.rx = t.rx) hrun (fun m u u' hm hu hact => ?_) (fun always => ?_) ht rfl
    · have enabled : checkEnabled u = true := (checkEnabled_congr hu).trans hcheck
      exact (act_keeps_rx_of_ne_bg hm hact (not_waiting_of_checkEnabled enabled)).trans hu
    · refine hfair n (.inl fun k hk => ?_)
      obtain ⟨u, hu, hrx⟩ := always k hk
      exact ⟨u, hu, (checkEnabled_congr hrx).trans hcheck⟩
  · obtain ⟨hrx, e, he⟩ := readEnabled_iff.1 hread
    rw [he]
    refine exists_bg_of_stable (P := fun u => u.rx = .reading ∧ u.rxin.head? = some e) hrun
      (fun m u u' hm ⟨hu, hue⟩ hact => ?_) (fun always => ?_) ht ⟨hrx, he⟩
    · have kept : u'.rx = u.rx := act_keeps_rx_of_ne_bg hm hact fun b hb => Rx.noConfusion (hu.symm.trans hb)
      exact ⟨kept.trans hu, act_keeps_head_of_ne_bg hm hact hue⟩
    · refine hfair n (.inr fun k hk => ?_)
      obtain ⟨u, hu, hrx, hue⟩ := always k hk
      exact ⟨u, hu, readEnabled_iff.2 ⟨hrx, e, hue⟩⟩

end Sys2Proof.Machine
end

section
/-! SUPPORT. The Pixel Store and the display output (spec/42_framebuffer.md): the layout of its bytes, the packing of a
frame, what each operation answers, and what a run leaves of a byte that it does not store to. -/

namespace Sys2Proof.Machine

section
variable {s t : State} {o p k : Nat} {v : Byte} {m : Move} {ms : List Move} {i : Instr}

/-! ### Stored data is determined by what it reads as (R35) -/

/-- The cells of canonical storage are the bytes that differ from what an unlisted offset reads as. -/
theorem Memory.wf.mem_iff {base : Nat → Byte} {m : Memory} (h : m.wf base) (c : Host.Cell) :
    c ∈ m ↔ memRead base m c.1 = c.2 ∧ c.2 ≠ base c.1 := by
  obtain ⟨hsorted, hdiff⟩ := h
  induction m with
  | nil => exact ⟨nofun, fun ⟨hread, hne⟩ => absurd hread.symm hne⟩
  | cons d rest ih =>
    obtain ⟨a, b⟩ := d
    obtain ⟨hbelow, hrest⟩ := List.pairwise_cons.1 hsorted
    have ih := ih hrest fun c hc => hdiff c (List.mem_cons_of_mem _ hc)
    rw [List.mem_cons, memRead]
    by_cases ha : a = c.1
    · rw [if_pos ha]
      constructor
      · rintro (rfl | hc)
        · exact ⟨rfl, hdiff _ List.mem_cons_self⟩
        · exact absurd ha (hbelow c hc).ne
      · rintro ⟨hb, -⟩
        exact .inl (Prod.ext ha.symm hb.symm)
    · rw [if_neg ha, ← ih, or_iff_right]
      rintro rfl
      exact ha rfl

/-- Canonical storage that reads alike at every offset is the same. -/
theorem Memory.wf.ext {base : Nat → Byte} {m m' : Memory} (h : m.wf base) (h' : m'.wf base)
    (hread : ∀ o, memRead base m o = memRead base m' o) : m = m' :=
  have : Std.Irrefl fun c d : Host.Cell => c.1 < d.1 := ⟨fun _ => lt_irrefl _⟩
  h.1.eq_of_mem_iff h'.1 fun c => by rw [h.mem_iff, h'.mem_iff, hread]

/-- Nothing is stored at or above `FB_LEN`. -/
theorem State.Wf.fbByte_of_le (hs : s.Wf) (ho : s.params.fbLen ≤ o) : s.fbByte o = s.params.pixelReset o :=
  memRead_of_forall_ne fun c hc => ((hs.fbBelow c hc).trans_le ho).ne

/-! ### Pixel offsets (R107) -/

theorem State.Wf.fbLen_eq (hs : s.Wf) : s.params.fbLen = 4 * (s.cfg.width * s.cfg.height) := by
  rw [hs.cfgAsConfigured, Params.fbLen, fbBpp, Nat.mul_comm]

theorem State.Wf.pixelOffset_eq (hs : s.Wf) (x y k : Nat) :
    pixelOffset s.cfg.pitch x y k = 4 * (y * s.cfg.width + x) + k := by
  rw [hs.cfgAsConfigured, pixelOffset, Params.fbPitch, fbBpp]
  ring

theorem rowMajor_lt {w h x y : Nat} (hx : x < w) (hy : y < h) : y * w + x < w * h := by
  rw [Nat.mul_comm y, Nat.mul_comm w h]
  exact Nat.mul_add_lt_mul_of_lt_of_lt hy hx

/-- A pixel's row and column are the quotient and the remainder of its row-major number. -/
theorem rowMajor_inj {w x y x' y' : Nat} (hx : x < w) (hx' : x' < w) (h : y * w + x = y' * w + x') :
    x = x' ∧ y = y' := by
  have hw : 0 < w := Nat.zero_lt_of_lt hx
  obtain ⟨hrow, hcol⟩ := (Nat.div_mod_unique hw).2 ⟨(by ring : x + w * y = y * w + x), hx⟩
  obtain ⟨hrow', hcol'⟩ := (Nat.div_mod_unique hw).2 ⟨(by ring : x' + w * y' = y' * w + x'), hx'⟩
  exact ⟨by rw [← hcol, h, hcol'], by rw [← hrow, h, hrow']⟩

/-! ### Packing and the frame (R109, R110) -/

/-- Of a byte placed as byte `j` of a pixel, byte `k` is that byte or nothing. -/
theorem extractLsb'_placedByte (b : Byte) (j : Nat) (hk : k < 4) :
    ((b.setWidth 32 : Pixel) <<< (8 * j)).extractLsb' (8 * k) 8 = if j = k then b else 0 := by
  ext i hi
  rw [BitVec.getElem_extractLsb', BitVec.getLsbD_shiftLeft, BitVec.getLsbD_setWidth]
  rcases lt_trichotomy j k with h | rfl | h
  · rw [if_neg h.ne, BitVec.getLsbD_of_ge b _ (by omega)]
    simp
  · simp [hi, show 8 * j + i < 32 by omega, show i < 32 by omega]
  · rw [if_neg h.ne', decide_eq_true (by omega : 8 * k + i < 8 * j)]
    simp

theorem packPixel_eq_or (b0 b1 b2 b3 : Byte) :
    packPixel b0 b1 b2 b3 = (b0.setWidth 32 : Pixel) <<< (8 * 0) ||| (b1.setWidth 32 : Pixel) <<< (8 * 1) |||
      (b2.setWidth 32 : Pixel) <<< (8 * 2) ||| (b3.setWidth 32 : Pixel) <<< (8 * 3) := by
  rw [packPixel, Nat.mul_zero, BitVec.shiftLeft_zero]

theorem extractLsb'_pixelAt (s : State) (p : Nat) (hk : k < 4) :
    (pixelAt s p).extractLsb' (8 * k) 8 = s.fbByte (4 * p + k) := by
  rw [pixelAt, packPixel_eq_or]
  simp only [BitVec.extractLsb'_or, extractLsb'_placedByte _ _ hk]
  interval_cases k <;> simp

theorem getElem?_framePixels (hp : p < s.cfg.width * s.cfg.height) : (framePixels s)[p]? = some (pixelAt s p) := by
  rw [List.getElem?_eq_getElem (by rwa [length_framePixels]), getElem_framePixels]

/-- Equal frames have equal pixels, so the bytes packed into them are equal. -/
theorem fbByte_eq_of_framePixels_eq (hs : s.Wf) (ht : t.Wf) (hparams : s.params = t.params)
    (hframe : framePixels s = framePixels t) (ho : o < s.params.fbLen) : s.fbByte o = t.fbByte o := by
  have hpixel : o / 4 < s.cfg.width * s.cfg.height := by
    rw [hs.fbLen_eq] at ho; omega
  have hpixel' : o / 4 < t.cfg.width * t.cfg.height := by
    rw [hparams, ht.fbLen_eq] at ho; omega
  have hbyte : o % 4 < 4 := Nat.mod_lt _ (by decide)
  have hpack : pixelAt s (o / 4) = pixelAt t (o / 4) := by
    rw [← Option.some_inj, ← getElem?_framePixels hpixel, ← getElem?_framePixels hpixel', hframe]
  rw [← Nat.div_add_mod o 4, ← extractLsb'_pixelAt s _ hbyte, ← extractLsb'_pixelAt t _ hbyte, hpack]

/-! ### What the operations answer (R105, R106, R109) -/

theorem exec_fbLd (hrun : s.fault = none) (ho : o < s.params.fbLen) :
    exec (.fbLd o) s = .next (s.respond (.rdata (s.fbByte o))) := by
  rw [exec, execFbLd, whileRunning_of_running _ hrun, if_pos ((pixelOffsetOk_iff _ _).2 ho)]

theorem exec_fbSt (hrun : s.fault = none) (ho : o < s.params.fbLen) :
    exec (.fbSt o v) s = .next ((s.setFbByte o v).respond .ack) := by
  rw [exec, execFbSt, whileRunning_of_running _ hrun, if_pos ((pixelOffsetOk_iff _ _).2 ho)]

theorem exec_fbRefresh (hrun : s.fault = none) :
    exec .fbRefresh s = .next (s.respond (.frame (framePixels s) s.cfg.width s.cfg.height)) := by
  rw [exec, execFbRefresh, whileRunning_of_running _ hrun]

theorem act_ld_fb (hp : s.params.Legal) (hrun : s.fault = none) (ho : o < s.params.fbLen) :
    act (ld (s.params.fbBase + o)) s = .next (s.respond (.rdata (s.fbByte o))) :=
  (act_of_decode hrun rfl (decode_fb hp ho .load 0)).trans (exec_fbLd hrun ho)

theorem act_st_fb (hp : s.params.Legal) (hrun : s.fault = none) (ho : o < s.params.fbLen) :
    act (st (s.params.fbBase + o) v) s = .next ((s.setFbByte o v).respond .ack) := by
  have hdecode := decode_fb hp ho .store v.toNat
  rw [lowByte_toNat] at hdecode
  exact (act_of_decode hrun rfl hdecode).trans (exec_fbSt hrun ho)

/-! ### What a run leaves of a pixel byte (R108) -/

theorem selects_eq_some_iff : selects m s = some i ↔ ∃ key, moveKey m s = some key ∧ decode s.params key = .ok i := by
  rw [selects]
  cases moveKey m s with
  | none => simp
  | some key => cases h : decode s.params key <;> simp [h, Except.toOption]

theorem exists_producerKey_eq (s : State) : ∃ e, producerKey s = .rx s.rx e s.params.spuriousWake := by
  rw [producerKey]
  cases s.rx <;> exact ⟨_, rfl⟩

theorem producerOp_of_decodeRx {r : Rx} {e : Option InEvent} {spurious : Bool} (h : decodeRx r e spurious = .ok i) :
    producerOp i = true := by
  cases r with
  | reading =>
    cases e with
    | none => cases h
    | some ev => cases ev <;> cases h <;> rfl
  | got | woken =>
    cases e with
    | none => cases h; rfl
    | some ev => cases h
  | waiting b =>
    cases e with
    | none => cases spurious <;> cases h; rfl
    | some ev => cases h

/-- The producer's own moves run none of the foreground's operations. -/
theorem producerOp_of_selects_bg (h : selects .bg s = some i) : producerOp i = true := by
  obtain ⟨key, hkey, hdecode⟩ := selects_eq_some_iff.1 h
  obtain ⟨e, hrx⟩ := exists_producerKey_eq s
  rw [← Option.some.inj hkey, hrx] at hdecode
  exact producerOp_of_decodeRx hdecode

/-- A move that runs the store to a Pixel Store offset is a request that decodes to it. -/
theorem exists_fg_of_selects_fbSt (h : selects m s = some (.fbSt o v)) :
    ∃ r, m = .fg r ∧ decode s.params (.fg r) = .ok (.fbSt o v) := by
  cases m with
  | fg r =>
    obtain ⟨key, hkey, hdecode⟩ := selects_eq_some_iff.1 h
    cases hkey
    exact ⟨r, rfl, hdecode⟩
  | bg => cases producerOp_of_selects_bg h
  | offer e => cases h
  | output f => cases h

/-- A move that changes a pixel byte is a request that stores to it. -/
theorem act_fbByte_changed (h : act m s = .next t) (hne : t.fbByte o ≠ s.fbByte o) :
    ∃ r w, m = .fg r ∧ decode s.params (.fg r) = .ok (.fbSt o w) := by
  obtain ⟨-, ⟨i, hsel, hexec⟩ | ⟨-, ⟨-, rfl⟩ | ⟨e, -, rfl⟩ | ⟨f, -, rfl⟩⟩⟩ := act_next h
  · obtain ⟨w, rfl, -⟩ := onlyFbStoresWritePixelBytes i s t o hexec hne
    obtain ⟨r, hm, hdecode⟩ := exists_fg_of_selects_fbSt hsel
    exact ⟨r, w, hm, hdecode⟩
  all_goals exact absurd rfl hne

/-- A load after moves none of which stores to its offset returns the byte there at the start. -/
theorem resp_of_runMoves_ld_fb (hs : s.Wf) (ho : o < s.params.fbLen)
    (hnone : ∀ r : Request, Move.fg r ∈ ms → ∀ w : Byte, decode s.params (.fg r) ≠ .ok (.fbSt o w))
    (h : runMoves (ms ++ [ld (s.params.fbBase + o)]) s = .next t) : t.resp = .rdata (s.fbByte o) := by
  induction ms generalizing s with
  | nil =>
    obtain ⟨u, hu, hend⟩ := runMoves_cons_next h
    obtain ⟨hrun, -⟩ := act_next hu
    rw [act_ld_fb hs.legal hrun ho] at hu
    cases hu
    cases hend
    rfl
  | cons m ms ih =>
    obtain ⟨u, hu, hrest⟩ := runMoves_cons_next h
    obtain ⟨hwf, hparams, -⟩ := act_keeps_wf hs hu
    have hkept : u.fbByte o = s.fbByte o := by
      by_contra hne
      obtain ⟨r, w, rfl, hdecode⟩ := act_fbByte_changed hu hne
      exact hnone r List.mem_cons_self w hdecode
    rw [← hkept]
    refine ih hwf (hparams ▸ ho) (fun r hr => ?_) (hparams ▸ hrest)
    rw [hparams]
    exact hnone r (List.mem_cons_of_mem _ hr)

end

/-! ### The statements -/

/-- Settles O19: the `p`-th pixel packs the four bytes from `4p` on. -/
theorem eachPixelByteIsItsBufferByte : Obligations.EachPixelByteIsItsBufferByte :=
  fun s p _ hp hk => ⟨pixelAt s p, getElem?_framePixels hp, extractLsb'_pixelAt s p hk⟩

/-- Settles O20: the frame gives the bytes below `FB_LEN`, the others hold their reset values, and canonical storage is
determined by its bytes. -/
theorem frameDeterminesTheBuffer : Obligations.FrameDeterminesTheBuffer := by
  intro s t hs ht hparams hframe
  have hbelow : ∀ o, o < s.params.fbLen → s.fbByte o = t.fbByte o :=
    fun _ => fbByte_eq_of_framePixels_eq hs ht hparams hframe
  have hread : ∀ o, s.fbByte o = t.fbByte o := fun o => by
    rcases lt_or_ge o s.params.fbLen with ho | ho
    · exact hbelow o ho
    · rw [hs.fbByte_of_le ho, ht.fbByte_of_le (hparams ▸ ho), hparams]
  exact ⟨hbelow, hs.fbCanonical.ext (hparams ▸ ht.fbCanonical) fun o =>
    (hread o).trans (by rw [State.fbByte, hparams])⟩

/-- Settles O21: the offsets of a pixel's four bytes follow its row-major number, and that number determines the pixel. -/
theorem pixelOffsetsAreRowMajorAndDistinct : Obligations.PixelOffsetsAreRowMajorAndDistinct := by
  intro s x y k hs hx hy hk
  refine ⟨hs.pixelOffset_eq x y k, ?_, fun x' y' k' hx' hk' h => ?_⟩
  · have hpixel := rowMajor_lt hx hy
    rw [hs.pixelOffset_eq, hs.fbLen_eq]
    omega
  · rw [hs.pixelOffset_eq, hs.pixelOffset_eq] at h
    obtain ⟨rfl, rfl⟩ := rowMajor_inj hx hx' (by omega : y * s.cfg.width + x = y' * s.cfg.width + x')
    exact ⟨rfl, rfl, by omega⟩

/-- Settles O22: the store leaves a well-formed state with its byte, which the moves after it keep for the load. -/
theorem storedPixelByteIsReadBack : Obligations.StoredPixelByteIsReadBack := by
  intro s t o v ms hs ho hnone h
  obtain ⟨u, hu, hrest⟩ := runMoves_cons_next h
  obtain ⟨hrun, -⟩ := act_next hu
  obtain ⟨hwf, -, -⟩ := act_keeps_wf hs hu
  obtain rfl : (s.setFbByte o v).respond .ack = u := Host.Outcome.next.inj ((act_st_fb hs.legal hrun ho).symm.trans hu)
  rw [resp_of_runMoves_ld_fb hwf ho hnone hrest, State.fbByte_respond, State.fbByte_setFbByte, if_pos rfl]

/-- Settles O17, by what a Pixel Store read returns after a write. -/
theorem pixelByteLoadAndStore : Obligations.PixelByteLoadAndStore := fun s o hrun ho =>
  ⟨exec_fbLd hrun ho, fun v => ⟨_, exec_fbSt hrun ho, rfl,
    (State.fbByte_setFbByte s o v o).trans (if_pos rfl),
    fun k hk => (State.fbByte_setFbByte s o v k).trans (if_neg hk)⟩⟩

/-- Settles O18: the frame's `p`-th pixel is the packed pixel `p`. -/
theorem refreshAnswersThePackedFrame : Obligations.RefreshAnswersThePackedFrame := fun s hrun =>
  ⟨framePixels s, exec_fbRefresh hrun, length_framePixels s, fun _ => getElem?_framePixels⟩

end Sys2Proof.Machine
end

section
/-! SUPPORT. Faults, concurrency and the end of a run (spec/60_exceptions.md): which fault a step of each operation can
record, which operations answer, and the outcomes of the pairs of steps that interact. -/

namespace Sys2Proof.Machine

/-! ### A faulted block (R114) -/

section
variable {s : State} {f : Fault}

theorem exec_of_faulted (h : s.fault = some f) (i : Instr) : exec i s = .fault f := by
  cases i <;> apply whileRunning_of_faulted _ h

theorem act_of_faulted (h : s.fault = some f) (m : Move) : act m s = .fault f :=
  whileRunning_of_faulted _ h

theorem step_of_faulted (h : s.fault = some f) : step s = .fault f :=
  whileRunning_of_faulted _ h

end

/-! ### The fault a step records (R113, R116, R127) -/

/-- The values operation `i` can leave in `fault` when it answers from `s`: the four faulting rows their own fault, an
operation that meets the poisoned lock `LockPoisoned`, a THR store whose output fails `TxError`, and otherwise none. -/
inductive Records (s : State) : Instr → Option Fault → Prop where
  | nothing {i : Instr} {f : Option Fault} (h : f = none) : Records s i f
  | fetch (addr : Nat) : Records s (.fetchFault addr) (some (.fetch addr))
  | unmapped (k : AccessKind) (addr size : Nat) :
    Records s (.busFaultUnmapped k addr size) (some (.unmapped k addr size))
  | badWidth (k : AccessKind) (addr size : Nat) :
    Records s (.busFaultWidth k addr size) (some (.badWidth k addr size))
  | outOfRange (k : AccessKind) (addr size offset : Nat) :
    Records s (.busFaultRange k addr size offset) (some (.outOfRange k addr size offset))
  | lockPoisoned {i : Instr} (op : LockOp) (poisoned : s.poisoned = true) : Records s i (some (.lockPoisoned op))
  | txError (v : Byte) (fails : s.txFails = true) : Records s (.uartStThr v) (some (.txError v))

section
variable {i : Instr} {s t : State} {f : Option Fault}

/-- The fault of every next state is one that its operation can record. -/
theorem exec_records (h : exec i s = .next t) : Records s i t.fault := by
  cases i with
  | fetchFault a => obtain ⟨-, rfl⟩ := execFetchFault_next h; exact .fetch a
  | busFaultUnmapped k a n => obtain ⟨-, rfl⟩ := execBusFaultUnmapped_next h; exact .unmapped k a n
  | busFaultWidth k a n => obtain ⟨-, rfl⟩ := execBusFaultWidth_next h; exact .badWidth k a n
  | busFaultRange k a n o => obtain ⟨-, rfl⟩ := execBusFaultRange_next h; exact .outOfRange k a n o
  | uartLdRhr =>
    obtain ⟨hrun, ⟨hp, rfl⟩ | ⟨-, rfl⟩⟩ := execUartLdRhr_next h
    · exact .lockPoisoned _ hp
    · exact .nothing ((wake_fault s).trans hrun)
  | uartLdLcr =>
    obtain ⟨hrun, ⟨hp, rfl⟩ | ⟨-, rfl⟩⟩ := execUartLdLcr_next h
    · exact .lockPoisoned _ hp
    · exact .nothing hrun
  | uartLdLsr =>
    obtain ⟨hrun, ⟨hp, rfl⟩ | ⟨-, rfl⟩⟩ := execUartLdLsr_next h
    · exact .lockPoisoned _ hp
    · exact .nothing hrun
  | uartLdReg o =>
    obtain ⟨hrun, -, ⟨hp, rfl⟩ | ⟨-, rfl⟩⟩ := execUartLdReg_next h
    · exact .lockPoisoned _ hp
    · exact .nothing hrun
  | uartStThr v =>
    obtain ⟨hrun, ⟨hp, rfl⟩ | ⟨-, -, rfl⟩ | ⟨-, hout, s', -, rfl⟩⟩ := execUartStThr_next h
    · exact .lockPoisoned _ hp
    · exact .nothing hrun
    · exact .txError v hout
  | uartStLcr v =>
    obtain ⟨hrun, ⟨hp, rfl⟩ | ⟨-, rfl⟩⟩ := execUartStLcr_next h
    · exact .lockPoisoned _ hp
    · exact .nothing hrun
  | uartStLsr v =>
    obtain ⟨hrun, ⟨hp, rfl⟩ | ⟨-, rfl⟩⟩ := execUartStLsr_next h
    · exact .lockPoisoned _ hp
    · exact .nothing hrun
  | uartStReg o v =>
    obtain ⟨hrun, -, ⟨hp, rfl⟩ | ⟨-, rfl⟩⟩ := execUartStReg_next h
    · exact .lockPoisoned _ hp
    · exact .nothing hrun
  | fbLd o => obtain ⟨hrun, -, rfl⟩ := execFbLd_next h; exact .nothing hrun
  | fbSt o v => obtain ⟨hrun, -, rfl⟩ := execFbSt_next h; exact .nothing hrun
  | irqPoll => obtain ⟨hrun, rfl⟩ := execIrqPoll_next h; exact .nothing hrun
  | rxReadByte b => obtain ⟨hrun, ⟨-, -, rfl⟩ | ⟨-, rfl⟩⟩ := execRxReadByte_next h <;> exact .nothing hrun
  | rxReadErr => obtain ⟨hrun, ⟨-, -, rfl⟩ | ⟨-, rfl⟩⟩ := execRxReadErr_next h <;> exact .nothing hrun
  | rxReadEnd => obtain ⟨hrun, ⟨-, -, r, -, rfl⟩ | ⟨-, rfl⟩⟩ := execRxReadEnd_next h <;> exact .nothing hrun
  | rxCheck b =>
    obtain ⟨hrun, ⟨-, ⟨hp, rfl⟩ | ⟨-, -, rfl⟩ | ⟨-, -, rfl⟩⟩ | ⟨-, rfl⟩⟩ := execRxCheck_next h
    · exact .lockPoisoned _ hp
    all_goals exact .nothing hrun
  | rxSpurious b => obtain ⟨hrun, ⟨-, -, rfl⟩ | ⟨-, rfl⟩⟩ := execRxSpurious_next h <;> exact .nothing hrun
  | fbRefresh => obtain ⟨hrun, rfl⟩ := execFbRefresh_next h; exact .nothing hrun

theorem Records.poisoned_of_lockPoisoned {op : LockOp} (h : Records s i f) (hf : f = some (.lockPoisoned op)) :
    s.poisoned = true := by
  cases h with
  | nothing h => exact absurd (h.symm.trans hf) nofun
  | lockPoisoned _ poisoned => exact poisoned
  | _ => cases hf

/-- With the lock free and the output working, only the four faulting rows record a fault. -/
theorem Records.eq_none (h : Records s i f) (hfree : s.poisoned = false) (hout : s.txFails = false)
    (hfetch : ∀ addr, i ≠ .fetchFault addr) (hunmapped : ∀ k addr size, i ≠ .busFaultUnmapped k addr size)
    (hwidth : ∀ k addr size, i ≠ .busFaultWidth k addr size)
    (hrange : ∀ k addr size o, i ≠ .busFaultRange k addr size o) : f = none := by
  cases h with
  | nothing h => exact h
  | fetch addr => exact absurd rfl (hfetch addr)
  | unmapped k addr size => exact absurd rfl (hunmapped k addr size)
  | badWidth k addr size => exact absurd rfl (hwidth k addr size)
  | outOfRange k addr size offset => exact absurd rfl (hrange k addr size offset)
  | lockPoisoned _ poisoned => exact absurd (hfree.symm.trans poisoned) Bool.false_ne_true
  | txError _ fails => exact absurd (hout.symm.trans fails) Bool.false_ne_true

/-- The lock becomes poisoned only with the `TxError` of the THR store that poisons it. -/
theorem exec_poisoned_changed (h : exec i s = .next t) (hne : t.poisoned ≠ s.poisoned) :
    t.poisoned = true ∧ ∃ v : Byte, i = .uartStThr v ∧ t.fault = some (.txError v) := by
  cases exec_effect h with
  | quiet same => exact absurd same.poisoned hne
  | rhrLoad => exact absurd (wake_poisoned s) hne
  | rawStore => exact absurd rfl hne
  | thrStore => exact absurd rfl hne
  | thrFail v => exact ⟨rfl, v, rfl, rfl⟩
  | fbStore => exact absurd rfl hne
  | poll => exact absurd rfl hne
  | delivery => exact absurd rfl hne

end

/-! ### Well-formed operations answer a next state (R116) -/

/-- The result is a next state. -/
def Answers (r : Result) : Prop := ∃ t, r = .next t

section
variable {s : State} {body : State → Result} {a b : Result}

theorem answers_next (t : State) : Answers (.next t) := ⟨t, rfl⟩

theorem answers_raise (f : Fault) (s : State) : Answers (raise f s) := answers_next _

theorem answers_hold (s : State) : Answers (hold s) := answers_next _

theorem answers_ite {c : Prop} [Decidable c] (ha : Answers a) (hb : Answers b) : Answers (if c then a else b) := by
  split
  · exact ha
  · exact hb

theorem answers_whileRunning (hrun : s.fault = none) (h : Answers (body s)) : Answers (whileRunning s body) := by
  rwa [whileRunning_of_running _ hrun]

theorem answers_atomicL {op : LockOp} (h : Answers (body s)) : Answers (atomicL op s body) :=
  answers_ite (answers_raise _ s) h

theorem answers_loadRaw (op : LockOp) (o : Nat) (s : State) : Answers (loadRaw op o s) :=
  answers_atomicL (answers_next _)

theorem answers_storeRaw (op : LockOp) (o : Nat) (v : Byte) (s : State) : Answers (storeRaw op o v s) :=
  answers_atomicL (answers_next _)

/-- A running block answers every operation whose operands are in its row; it holds where the step is not enabled. -/
theorem exec_answers {i : Instr} (hrun : s.fault = none) (hi : i.wellFormed s.params = true) : Answers (exec i s) := by
  cases i with
  | fetchFault => apply answers_whileRunning hrun; exact answers_raise _ s
  | busFaultUnmapped => apply answers_whileRunning hrun; exact answers_raise _ s
  | busFaultWidth => apply answers_whileRunning hrun; exact answers_raise _ s
  | busFaultRange => apply answers_whileRunning hrun; exact answers_raise _ s
  | uartLdRhr => apply answers_whileRunning hrun; exact answers_atomicL (answers_next _)
  | uartLdLcr => apply answers_whileRunning hrun; exact answers_loadRaw _ _ s
  | uartLdLsr => apply answers_whileRunning hrun; exact answers_loadRaw _ _ s
  | uartLdReg o => rw [exec_uartLdReg hrun (of_decide_eq_true hi)]; exact answers_loadRaw _ _ s
  | uartStThr v =>
    apply answers_whileRunning hrun
    exact answers_atomicL (answers_ite (answers_raise _ _) (answers_next _))
  | uartStLcr => apply answers_whileRunning hrun; exact answers_storeRaw _ _ _ s
  | uartStLsr => apply answers_whileRunning hrun; exact answers_storeRaw _ _ _ s
  | uartStReg o v => rw [exec_uartStReg hrun (of_decide_eq_true hi)]; exact answers_storeRaw _ _ _ s
  | fbLd o => exact ⟨_, exec_fbLd hrun (of_decide_eq_true hi)⟩
  | fbSt o v => exact ⟨_, exec_fbSt hrun (of_decide_eq_true hi)⟩
  | irqPoll => exact ⟨_, exec_irqPoll hrun⟩
  | rxReadByte b => apply answers_whileRunning hrun; exact answers_ite (answers_next _) (answers_hold s)
  | rxReadErr => apply answers_whileRunning hrun; exact answers_ite (answers_next _) (answers_hold s)
  | rxReadEnd => apply answers_whileRunning hrun; exact answers_ite (answers_next _) (answers_hold s)
  | rxCheck b =>
    apply answers_whileRunning hrun
    exact answers_ite (answers_atomicL (answers_ite (answers_next _) (answers_next _))) (answers_hold s)
  | rxSpurious b => apply answers_whileRunning hrun; exact answers_ite (answers_next _) (answers_hold s)
  | fbRefresh => exact ⟨_, exec_fbRefresh hrun⟩

end

/-! ### The pairs of steps that interact (R118) -/

section
variable {s t u : State} {i j : Instr} {b v : Byte}

theorem execAll_pair (hi : exec i s = .next t) (hj : exec j t = .next u) : execAll [i, j] s = .next u := by
  simp only [execAll, hi, hj]

theorem dr_setReg_lsr (hlen : offLsr < s.regs.length) : (s.setReg offLsr v).dr = v.getLsbD 0 :=
  congrArg flagDr (State.reg_setReg_self s v hlen)

theorem dr_rhrLoaded (hlen : offLsr < s.regs.length) : (rhrLoaded s).dr = false := by
  rw [State.dr, reg_lsr_rhrLoaded hlen, flagDr_withDrClear]

theorem dr_deliver (hlen : offLsr < s.regs.length) : (deliver b s).dr = true := by
  rw [State.dr, deliver_reg_lsr hlen, flagDr_withDrSet]

theorem exec_uartStLsr_of_ready (hready : s.Ready) :
    exec (.uartStLsr v) s = .next ((s.setReg offLsr v).respond .ack) :=
  (RawStore.lsr v).exec_of_ready hready

theorem length_regs_rhrLoaded (s : State) : (rhrLoaded s).regs.length = s.regs.length := by
  simp [rhrLoaded]

theorem rx_rhrLoaded_of_waiting (h : s.rx = .waiting b) : (rhrLoaded s).rx = .woken b := by
  rw [rhrLoaded, wake_of_waiting h]; rfl

theorem rx_rhrLoaded_of_got (h : s.rx = .got b) : (rhrLoaded s).rx = .got b := by
  rw [rhrLoaded, wake_of_not_waiting (by simp [h])]; exact h

/-- A check that finds `LSR.DR` clear leaves the byte in the RHR, `LSR.DR` set and the producer `Reading`. -/
theorem exists_delivery (hlen : offLsr < s.regs.length) (hready : s.Ready) (holds : s.rx = .got b ∨ s.rx = .woken b)
    (hdr : s.dr = false) :
    ∃ t, exec (.rxCheck b) s = .next t ∧ t.reg 0 = b ∧ t.dr = true ∧ t.rx = .reading :=
  ⟨_, exec_rxCheck_of_empty hready holds hdr, deliver_reg_rhr (Nat.zero_lt_of_lt hlen), dr_deliver hlen, rfl⟩

/-- An RHR load makes room for the check after it. -/
theorem rhrLoad_then_check (hs : s.Wf) (hready : s.Ready) (hrx : s.rx = .got b) :
    ∃ t, execAll [.uartLdRhr, .rxCheck b] s = .next t ∧ t.reg 0 = b ∧ t.dr = true ∧ t.rx = .reading := by
  have hlen : offLsr < (rhrLoaded s).regs.length := by rw [length_regs_rhrLoaded]; exact hs.lsr_lt
  obtain ⟨t, hcheck, hdelivered⟩ :=
    exists_delivery hlen (rhrLoaded_ready hready) (.inl (rx_rhrLoaded_of_got hrx)) (dr_rhrLoaded hs.lsr_lt)
  exact ⟨t, execAll_pair (exec_uartLdRhr_of_ready hready) hcheck, hdelivered⟩

/-- An RHR load wakes a waiting producer, whose next check delivers. -/
theorem exists_wake_then_delivery (hlen : offLsr < s.regs.length) (hready : s.Ready) (hrx : s.rx = .waiting b) :
    ∃ t, exec .uartLdRhr s = .next t ∧ t.rx = .woken b ∧ t.dr = false ∧
      ∃ u, exec (.rxCheck b) t = .next u ∧ u.reg 0 = b ∧ u.dr = true ∧ u.rx = .reading := by
  have hwoken : (rhrLoaded s).rx = .woken b := rx_rhrLoaded_of_waiting hrx
  have hempty : (rhrLoaded s).dr = false := dr_rhrLoaded hlen
  exact ⟨rhrLoaded s, exec_uartLdRhr_of_ready hready, hwoken, hempty,
    exists_delivery (by rwa [length_regs_rhrLoaded]) (rhrLoaded_ready hready) (.inr hwoken) hempty⟩

/-- A check before the RHR load waits for it. -/
theorem check_then_rhrLoad (hs : s.Wf) (hready : s.Ready) (hrx : s.rx = .got b) (hdr : s.dr = true) :
    ∃ t, execAll [.rxCheck b, .uartLdRhr] s = .next t ∧ t.rx = .woken b ∧ t.dr = false ∧
      ∃ u, exec (.rxCheck b) t = .next u ∧ u.reg 0 = b ∧ u.dr = true ∧ u.rx = .reading := by
  obtain ⟨t, hload, hwoken⟩ :=
    exists_wake_then_delivery (s := (s.setRx (.waiting b)).respond .silent) hs.lsr_lt hready rfl
  exact ⟨t, execAll_pair (exec_rxCheck_of_full hready (.inl hrx) hdr) hload, hwoken⟩

/-- A refresh shows each byte that the Pixel Store holds. -/
theorem exists_frame_showing {p k : Nat} (hrun : s.fault = none) (hp : p < s.cfg.width * s.cfg.height) (hk : k < 4) :
    ∃ (t : State) (x : Pixel) (px : List Pixel), exec .fbRefresh s = .next t ∧
      t.resp = .frame px s.cfg.width s.cfg.height ∧ px[p]? = some x ∧ x.extractLsb' (8 * k) 8 = s.fbByte (4 * p + k) :=
  ⟨_, pixelAt s p, framePixels s, exec_fbRefresh hrun, rfl, getElem?_framePixels hp, extractLsb'_pixelAt s p hk⟩

/-! ### The failing output (R128) -/

theorem exec_uartStThr_of_failing (hready : s.Ready) (hout : s.txFails = true) :
    exec (.uartStThr v) s = failFlush v s := by
  obtain ⟨hrun, hfree⟩ := hready
  rw [exec, execUartStThr, whileRunning_of_running _ hrun, atomicL_of_free _ hfree, if_pos hout]

end

/-! ### The statements -/

/-- Settles O28: a well-formed operation answers, none but the faulting rows records a fault there, and the lock is
poisoned only with a fault. -/
theorem ordinaryOperationsNeverFault : Obligations.OrdinaryOperationsNeverFault := by
  intro i s ⟨hrun, hfree⟩ hout hi hfetch hunmapped hwidth hrange
  obtain ⟨t, h⟩ := exec_answers hrun hi
  have hnone : t.fault = none := (exec_records h).eq_none hfree hout hfetch hunmapped hwidth hrange
  refine ⟨t, h, hnone, ?_⟩
  by_contra hp
  obtain ⟨-, v, -, htx⟩ := exec_poisoned_changed h (hfree ▸ hp)
  exact absurd (hnone.symm.trans htx) nofun

/-- Settles O46, by the effect that writes the lock's flag and by the faults that an operation can record. -/
theorem onlyTxErrorPoisonsTheLock : Obligations.OnlyTxErrorPoisonsTheLock := fun _ _ _ h =>
  ⟨exec_poisoned_changed h, fun _ => (exec_records h).poisoned_of_lockPoisoned⟩

/-- Settles O54. With `LSR.DR` set the check waits unless the load or the store before it clears the bit; with it clear
the check delivers unless the store before it sets the bit. -/
theorem interleavedPairsHaveTheStatedOutcomes : Obligations.InterleavedPairsHaveTheStatedOutcomes := by
  intro s b hs hready hrx
  have hlen := hs.lsr_lt
  have hstored (v : Byte) : offLsr < ((s.setReg offLsr v).respond .ack).regs.length := by simpa using hlen
  have hstore (v : Byte) := exec_uartStLsr_of_ready (v := v) hready
  have holds : s.rx = .got b ∨ s.rx = .woken b := .inl hrx
  refine ⟨fun hfull => ⟨rhrLoad_then_check hs hready hrx, check_then_rhrLoad hs hready hrx hfull, fun v hv => ?_⟩,
    fun hempty => ?_⟩
  · have hcleared := (dr_setReg_lsr hlen).trans hv
    have hwaits := exec_rxCheck_of_full hready holds hfull
    constructor
    · obtain ⟨t, hcheck, hrhr, hdr, -⟩ := exists_delivery (hstored v) hready holds hcleared
      exact ⟨t, execAll_pair (hstore v) hcheck, hrhr, hdr⟩
    · exact ⟨_, execAll_pair hwaits (exec_uartStLsr_of_ready (s := (s.setRx (.waiting b)).respond .silent) hready), rfl,
        hcleared, State.reg_setReg_ne s v (by decide)⟩
  · have hdelivers := exec_rxCheck_of_empty hready holds hempty
    have hlen' : offLsr < (deliver b s).regs.length := by rwa [deliver_length_regs]
    refine ⟨?_, ?_, fun v hv => ⟨?_, ?_⟩⟩
    · exact ⟨_, _, exec_irqPoll hready.1, rfl,
        exec_rxCheck_of_empty (s := (s.setIrq false).respond (.polled s.irq)) hready holds hempty, rfl⟩
    · exact ⟨_, execAll_pair hdelivers (exec_irqPoll hready.1), rfl, rfl⟩
    · exact ⟨_, execAll_pair (hstore v) (exec_rxCheck_of_full (s := (s.setReg offLsr v).respond .ack) hready holds
        ((dr_setReg_lsr hlen).trans hv)), rfl⟩
    · exact ⟨_, execAll_pair hdelivers (exec_uartStLsr_of_ready (s := (deliver b s).respond .silent) hready),
        (State.reg_setReg_ne _ v (by decide)).trans (deliver_reg_rhr (Nat.zero_lt_of_lt hlen)),
        State.reg_setReg_self _ v hlen', (dr_setReg_lsr hlen').trans hv⟩

/-- Settles O55: a refresh shows the bytes of the state that it reads, after the store as before it. -/
theorem refreshShowsTheStoresBeforeIt : Obligations.RefreshShowsTheStoresBeforeIt := by
  intro s p k v hs hrun hp hk
  refine ⟨?_, exists_frame_showing hrun hp hk⟩
  have ho : 4 * p + k < s.params.fbLen := by rw [hs.fbLen_eq]; omega
  have hstored : (s.setFbByte (4 * p + k) v).fbByte (4 * p + k) = v :=
    (State.fbByte_setFbByte s _ v _).trans (if_pos rfl)
  obtain ⟨t, x, px, hrefresh, hresp, hx, hbyte⟩ :=
    exists_frame_showing (s := (s.setFbByte (4 * p + k) v).respond .ack) hrun hp hk
  exact ⟨t, x, px, execAll_pair (exec_fbSt hrun ho) hrefresh, hresp, hx, hbyte.trans hstored⟩

/-- Settles O7: the two values of the free choice are the two `TX` that the statement names. -/
theorem failingOutputRaisesTxError : Obligations.FailingOutputRaisesTxError := by
  intro s v hrun hfree hout
  rw [exec_uartStThr_of_failing ⟨hrun, hfree⟩ hout, failFlush]
  cases Config.failedFlushKeepsByte s.draws with
  | true => exact ⟨_, .inr rfl, rfl⟩
  | false => exact ⟨_, .inl rfl, rfl⟩

/-- Settles O25: a running block's faulting row only raises its fault. -/
theorem faultRowsRecordTheirFault : Obligations.FaultRowsRecordTheirFault := fun _ _ _ _ _ hrun =>
  ⟨whileRunning_of_running _ hrun, whileRunning_of_running _ hrun, whileRunning_of_running _ hrun,
    whileRunning_of_running _ hrun⟩

/-- Settles O26: each operation, each move and the step require the block to be running. -/
theorem faultedBlockTakesNoStep : Obligations.FaultedBlockTakesNoStep := fun _ _ h =>
  ⟨exec_of_faulted h, act_of_faulted h, step_of_faulted h⟩

/-- Settles O27: each code and each mnemonic is the value of its arm. -/
theorem faultKindsHaveTheStatedCodes : Obligations.FaultKindsHaveTheStatedCodes := fun _ _ _ _ _ _ =>
  ⟨rfl, rfl, rfl, rfl, rfl, rfl, rfl, rfl, rfl⟩

end Sys2Proof.Machine
end

section
/-! SUPPORT. What the loads and the poll observe right after reset (spec/70_reset_and_hazards.md R131). -/

namespace Sys2Proof.Machine

theorem State.construct_ready (p : Params) : (State.construct p).Ready := ⟨rfl, rfl⟩

/-- Right after construction no producer waits, so an RHR load only clears `LSR.DR` and answers. -/
theorem rhrLoaded_construct (p : Params) :
    rhrLoaded (State.construct p) =
      ((State.construct p).setReg offLsr (withDrClear ((State.construct p).reg offLsr))).respond
        (.rdata ((State.construct p).reg offRhr)) := by
  rw [rhrLoaded, wake_of_not_waiting fun _ => Rx.noConfusion]

/-- Settles O2: the constructed state is ready, each access answers the byte that it reads there, and those bytes are the
ones that reset leaves. Clearing bit 0 of `0x20` keeps it. -/
theorem observationsRightAfterReset : Obligations.ObservationsRightAfterReset := by
  intro p hp hd
  obtain ⟨-, -, -, -, hleaves⟩ := resetLeavesTheStatedState
  obtain ⟨-, -, -, -, -, -, -, htx, hrun, hnotDrawn⟩ := hleaves p hp
  obtain ⟨hreg, hirq, hfb⟩ := hnotDrawn hd
  have hready := State.construct_ready p
  have hlsr : (State.construct p).reg offLsr = 0x20 := hreg 5 hp.1
  have hrhr : (State.construct p).reg offRhr = 0x00 := hreg 0 (Nat.zero_lt_of_lt hp.1)
  refine ⟨?_, ?_, ?_, fun o ho => ?_, htx⟩
  · have hload := act_ld_raw (s := State.construct p) (o := offLsr) hp hready (by decide) hp.1
    rwa [hlsr] at hload
  · have hload := act_ld_rhr (s := State.construct p) hp hready
    rwa [rhrLoaded_construct, hlsr, hrhr] at hload
  · have hpoll := act_of_decode (m := .fg .poll) hrun rfl rfl
    rwa [exec_irqPoll hrun, hirq] at hpoll
  · have hload := act_ld_fb (s := State.construct p) hp hrun ho
    rwa [hfb] at hload

end Sys2Proof.Machine
end
